-- ==== Sys2Proof/Word.lean ====
section
/-! DEFINITION. Words and the one value type of VLCAP (spec/00_scope.md R8, R14; spec/10_state.md R27; spec/30_encoding.md R98).

Every value is an unsigned bit vector of a stated width (R14). The two names "Rising | Falling" are a
type of their own; their one-bit encoding (R98) is `edgeBit` of Machine/Operands.lean. -/

namespace Sys2Proof

/-- An operation word (R91) or a byte of a canonical image (R97). -/
abbrev Byte := BitVec 8

/-- A slot index, the width of `HEAD` and `TAIL` (`INDEX_BITS = 8`, R7). -/
abbrev Index := BitVec 8

/-- The width of `CNT`, `ICR`, `OVH` and `DROPPED` (R8). -/
abbrev Count := BitVec 16

/-- An absolute tick (`TICK_BITS = 32`, R8). -/
abbrev Tick := BitVec 32

/-- The polarity of a transition of the monitored input (R18, R98). -/
inductive Edge where
  | rising
  | falling
deriving DecidableEq, Repr, Inhabited

/-- "A CaptureEvent is a pair `{ticks, edge}`" (R27). -/
structure CaptureEvent where
  ticks : Tick
  edge  : Edge
deriving DecidableEq, Repr, Inhabited

end Sys2Proof
end

