-- ==== Sys2Proof/Syntax.lean ====
section
/-! DEFINITION. The nine operations of VLCAP (spec/30_encoding.md R93), one constructor for each row of spec/opcode_table.json. -/

namespace Sys2Proof

/-- "The nine operations of VLCAP, all of them" (R93). The only operand is the one-bit immediate `v`
of `PIN` and `GIE`, "used as it stands" (R94). -/
inductive Instr where
  /-- `TICK`: one increment of the hardware counter (R120). -/
  | tick
  /-- `PIN v`: the monitored input takes level `v` (R121). -/
  | pin (v : Bool)
  /-- `OVF`: service of the overflow interrupt (R144). -/
  | ovf
  /-- `CAP`: service of the edge-capture interrupt (R145). -/
  | cap
  /-- `AVAIL`: `available() -> bool` (R170). -/
  | avail
  /-- `POP`: `pop() -> Option<CaptureEvent>` (R171). -/
  | pop
  /-- `DROPPED`: `droppedCount() -> u16` (R172). -/
  | dropped
  /-- `INIT`: `initialize()` (R190). -/
  | init
  /-- `GIE v`: set the global producer-interrupt enable (R191). -/
  | gie (v : Bool)
deriving DecidableEq, Repr, Inhabited

/-- The agents that perform operations (R93, R211, R217). -/
inductive Agent where
  /-- The free-running counter: `TICK`. -/
  | counter
  /-- The environment, with the edge detector's reaction: `PIN`. -/
  | environment
  /-- The producer (interrupt) context: `OVF`, `CAP`. -/
  | producer
  /-- The single consumer: `AVAIL`, `POP`, `DROPPED`. -/
  | consumer
  /-- The bring-up collaborator: `INIT`, `GIE`. -/
  | bringUp
deriving DecidableEq, Repr

end Sys2Proof
end

