-- ==== Sys2Proof/Config.lean ====
section
/-! DEFINITION. The configuration and every open value of the spec (spec/00_scope.md R6, R10 to R13; spec/10_state.md R45, R46).

Nothing here has a value a proof can see: each open value is an `opaque` constant with no body. -/

namespace Sys2Proof

/-- What the capture latch does when an armed edge arrives while `CAP_PEND` is already 1 (R12). -/
inductive Recapture where
  | overwrite
  | hold
deriving DecidableEq, Repr, Inhabited

/-- The build-time options as they are written down, before the check of R6. -/
structure Parameters where
  capacity    : Nat
  noiseFilter : Bool
  initEdge    : Edge
  recapture   : Recapture
deriving DecidableEq, Repr

/-- The configuration of a machine that was built (R13). `CAPACITY = 2^capacityLog2`, "`2^k` with `k`
in 0..8" (R6), so that no other capacity can be written here. -/
structure Config where
  capacityLog2 : Fin 9
  noiseFilter  : Bool
  initEdge     : Edge
  recapture    : Recapture
deriving DecidableEq, Repr, Inhabited

/-- The values drawn once at reset, "any value of the register's width ... under no law", for every
register that R45 marks unspecified. -/
structure ResetDraw where
  cnt     : Count
  icr     : Count
  ovh     : Count
  head    : Index
  tail    : Index
  dropped : Count
  run     : Bool
  edgeSel : Edge
  ncEn    : Bool
  ovfPend : Bool
  capPend : Bool
  pin     : Bool
deriving DecidableEq, Repr, Inhabited

/-- The configuration of the machine that `State.reset` stands for: OPEN (R6, R10 to R13). Assumption 2. -/
opaque Config.machine : Config

/-- The values drawn at reset (R45): "a model must not pick zero". Assumption 3. -/
opaque Config.resetDraw : ResetDraw

/-- What a slot of `BUF` that no CAP has written holds (R28, R45: unspecified, drawn once at reset).
Assumption 4. -/
opaque Config.unwrittenSlot : Nat → CaptureEvent

/-- The operation the agents take next where no operation word is queued: the schedule is free (R46,
R122, R207). Assumption 1. -/
opaque Config.freeOperation : Nat → Instr

end Sys2Proof
end

