-- ==== Sys2Proof/Machine/State.lean ====
section
/-! DEFINITION. The state of VLCAP (spec/10_state.md R20 to R47), its faults and refusals, and the state at reset (R45, R240). -/

namespace Sys2Proof.Machine

/-- The slots of `BUF` (R28, R60) that some CAP has written since reset, as (index, event) pairs, indices
strictly rising. The addressable unit is one whole slot (R60). Assumption 4. -/
abbrev Memory := List (Nat × CaptureEvent)

/-- The response word of an operation that is Done (R16, R96). -/
inductive Response where
  /-- TICK, PIN, OVF, CAP, INIT and GIE return nothing. -/
  | nothing
  /-- AVAIL returns one bit. -/
  | avail (a : BitVec 1)
  /-- POP returns the 34-bit word `valid ‖ edge ‖ ticks`. -/
  | popped (w : BitVec 34)
  /-- DROPPED returns the 16-bit drop counter. -/
  | count (d : Count)
deriving DecidableEq, Repr

/-- How a step can stop with a fault. VLCAP itself raises none (R200); see assumption 5. -/
inductive Fault where
  /-- Raised by `slotRead` (POP) and `slotWrite` (CAP) for an index above `MASK`, a slot that does not
  exist (R60, R61). No state of a run reaches it (R47 (a)). Safe: the model stops. -/
  | noSuchSlot
deriving DecidableEq, Repr

/-- Why a step is refused: the closed list of R203, R16's `NotEnabled`, and the host's own first entry. A
refusal changes no state. -/
inductive Refusal where
  /-- Raised by no arm of this model: every operation has its meaning. Safe. -/
  | notModelled (mnemonic : String)
  /-- `BadConfiguration`: raised by building the machine, `CAPACITY` not one of 1, 2, 4, ..., 256 (R6, R203). Safe. -/
  | badConfiguration
  /-- `ReservedOp`: raised by the fetch of a word that R93 does not list (R95, R203). Safe. -/
  | reservedOp
  /-- `NotInitialised`: raised by AVAIL, POP, DROPPED and `GIE 1` when `INITED = 0` (R203). Safe. -/
  | notInitialised
  /-- `InitTwice`: raised by INIT when `INITED = 1` (R190, R203). Safe. -/
  | initTwice
  /-- `InitWithInterruptsEnabled`: raised by INIT when `INITED = 0` and `GIE = 1` (R190, R203). Safe. -/
  | initWithInterruptsEnabled
  /-- R16's outcome `NotEnabled`, of OVF and CAP only: the dispatch condition of R208 is false, the step
  does not exist, and a trace that contains it is not an execution of VLCAP. Safe. Assumption 6. -/
  | notEnabled
deriving DecidableEq, Repr

/-- "The complete state of VLCAP is the following and nothing else" (R20): the fields `cnt` to `buf`. The
first field and the last three are the model's own: the configuration, an argument of the step (R13, R46;
assumption 2), and the schedule and the response (assumptions 1 and 8). -/
structure State where
  /-- The configuration, which no step changes (R13). -/
  config   : Config
  /-- No. 0 `CNT`: the free-running counter (R21). -/
  cnt      : Count
  /-- No. 1 `ICR`: the capture latch (R22). -/
  icr      : Count
  /-- No. 2 `OVH`: `overflowHigh` (R23). -/
  ovh      : Count
  /-- No. 3 `HEAD`: next write slot (R24). -/
  head     : Index
  /-- No. 4 `TAIL`: next read slot (R25). -/
  tail     : Index
  /-- No. 5 `DROPPED`: the drop counter (R26). -/
  dropped  : Count
  /-- `CTRL` bit 0 `RUN` (R34). -/
  run      : Bool
  /-- `CTRL` bit 1 `EDGE_SEL`: the armed polarity (R32). -/
  edgeSel  : Edge
  /-- `CTRL` bit 2 `NC_EN` (R33). -/
  ncEn     : Bool
  /-- `CTRL` bit 3 `OVF_IE` (R35). -/
  ovfIE    : Bool
  /-- `CTRL` bit 4 `CAP_IE` (R36). -/
  capIE    : Bool
  /-- `FLAGS` bit 0 `OVF_PEND` (R30). -/
  ovfPend  : Bool
  /-- `FLAGS` bit 1 `CAP_PEND` (R31). -/
  capPend  : Bool
  /-- No. 8 `GIE`: the global producer-interrupt enable (R37). -/
  gie      : Bool
  /-- No. 9 `PIN`: the level of the monitored input (R29). -/
  pin      : Bool
  /-- No. 10 `INITED`: INIT has run (R39). -/
  inited   : Bool
  /-- `BUF` (R28). -/
  buf      : Memory
  /-- The operation words still to come, oldest first: the trace of R100 in the total order of R68. -/
  schedule : List Byte
  /-- How many free operations have been taken (the counter `Config.freeOperation` is applied to). -/
  turn     : Nat
  /-- The response of the last operation that was Done (R16, R96). -/
  response : Response
deriving DecidableEq, Repr

/-- The state right after reset of a machine with configuration `c`, for the values `d` drawn there:
"`GIE = 0`, `OVF_IE = 0`, `CAP_IE = 0`, `INITED = 0` and every other register and every slot holds an
unspecified value" (R240, R45). No slot is listed, no operation is queued, none has answered. -/
def State.atReset (c : Config) (d : ResetDraw) : State where
  config   := c
  cnt      := d.cnt
  icr      := d.icr
  ovh      := d.ovh
  head     := d.head
  tail     := d.tail
  dropped  := d.dropped
  run      := d.run
  edgeSel  := d.edgeSel
  ncEn     := d.ncEn
  ovfIE    := false
  capIE    := false
  ovfPend  := d.ovfPend
  capPend  := d.capPend
  gie      := false
  pin      := d.pin
  inited   := false
  buf      := []
  schedule := []
  turn     := 0
  response := .nothing

/-- Reset (R45, R240), for the open configuration and the values drawn. -/
def State.reset : State := State.atReset Config.machine Config.resetDraw

end Sys2Proof.Machine
end

