-- ==== Sys2Proof/Machine/Operands.lean ====
section
/-! DEFINITION. Operand forms and value functions: the masked slot index (spec/20_memory.md R61), the boundary guard and the absolute tick (spec/41_capture_source.md R141, R142), and the data encodings (spec/30_encoding.md R96 to R98). -/

namespace Sys2Proof.Machine

/-- `CAPACITY`, the number of slots (R6). -/
def capacity (c : Config) : Nat := 2 ^ c.capacityLog2.val

/-- `MASK = CAPACITY - 1` (R6), in the width of an index. -/
def mask (c : Config) : Index := BitVec.ofNat 8 (capacity c - 1)

/-- The post-increment modulo `CAPACITY` of `HEAD` and `TAIL`: `(x + 1) & MASK` (R17 (d), R61). -/
def advance (c : Config) (x : Index) : Index := (x + 1#8) &&& mask c

/-- The slot index `i` is in 0..MASK (R60, R61). -/
def slotExists (c : Config) (i : Index) : Bool := decide (i ≤ mask c)

/-- One bit for a polarity: `1` = Rising, `0` = Falling (R98). -/
def edgeBit (e : Edge) : Bool :=
  match e with
  | .rising  => true
  | .falling => false

/-- The polarity a bit stands for, also the direction of a transition to level `v` (R98). -/
def edgeOfBit (v : Bool) : Edge := if v then .rising else .falling

/-- The opposite polarity, `~e` (R145 step 8). -/
def oppositeEdge (e : Edge) : Edge :=
  match e with
  | .rising  => .falling
  | .falling => .rising

/-- `MIDPOINT` (R9). -/
def guardMidpoint : Count := 0x8000#16

/-- The boundary guard `adjust(f, l, h)` (R141). -/
def adjust (f : Bool) (l h : Count) : Count :=
  if f = true ∧ l < guardMidpoint then h + 1#16 else h

/-- The absolute tick `abstick(a, l) = (zext_32(a) << 16) | zext_32(l)` (R142). -/
def abstick (a l : Count) : Tick := (a.setWidth 32 <<< 16) ||| l.setWidth 32

/-- The 33-bit value `edge ‖ ticks` of an event (R97). -/
def eventWord (ev : CaptureEvent) : BitVec 33 := BitVec.ofBool (edgeBit ev.edge) ++ ev.ticks

/-- The event of a 33-bit value (R97). -/
def eventOfWord (w : BitVec 33) : CaptureEvent :=
  { ticks := w.extractLsb' 0 32, edge := edgeOfBit (w.getLsbD 32) }

/-- The canonical five-byte image of an event, "least significant byte of `ticks` first" (R63, R97). -/
def eventImage (ev : CaptureEvent) : List Byte :=
  [ ev.ticks.extractLsb' 0 8, ev.ticks.extractLsb' 8 8, ev.ticks.extractLsb' 16 8,
    ev.ticks.extractLsb' 24 8, (BitVec.ofBool (edgeBit ev.edge)).setWidth 8 ]

/-- The response word of AVAIL: `1` if an event is queued (R96). -/
def availWord (queued : Bool) : BitVec 1 := BitVec.ofBool queued

/-- The response word of POP: `valid ‖ edge ‖ ticks`, all zero for none (R96). -/
def popWord (ev : Option CaptureEvent) : BitVec 34 :=
  match ev with
  | none    => 0#34
  | some ev => 1#1 ++ eventWord ev

/-- The event a POP response carries, if its `valid` bit is set (R96). -/
def popEvent (w : BitVec 34) : Option CaptureEvent :=
  if w.getLsbD 33 then some (eventOfWord (w.extractLsb' 0 33)) else none

end Sys2Proof.Machine
end

