-- ==== Sys2Proof/Machine/Flags.lean ====
section
/-! DEFINITION. Flag and condition computations: queue predicates (spec/10_state.md R43), the qualifying edge (spec/40_counter_and_edge_detector.md R121), the dispatch conditions (spec/60_exceptions.md R208) and the register dump (spec/10_state.md R20, R38). -/

namespace Sys2Proof.Machine

/-- `empty = (HEAD = TAIL)` (R43). -/
def isEmpty (s : State) : Bool := decide (s.head = s.tail)

/-- `full = (((HEAD + 1) & MASK) = TAIL)` (R43). -/
def isFull (s : State) : Bool := decide (advance s.config s.head = s.tail)

/-- `occupancy = (HEAD - TAIL) mod CAPACITY` (R43). -/
def occupancy (s : State) : Nat := ((s.head - s.tail) &&& mask s.config).toNat

/-- The step `PIN v` is a transition of the armed polarity, a qualifying edge (R121). -/
def qualifies (v : Bool) (s : State) : Bool :=
  decide (v ≠ s.pin) && decide (edgeOfBit v = s.edgeSel)

/-- A qualifying edge moves `CNT` into the latch: `CAP_PEND = 0 or RECAPTURE = Overwrite` (R121, R12). -/
def latchOpen (s : State) : Bool := !s.capPend || decide (s.config.recapture = .overwrite)

/-- OVF is enabled: `INITED = 1 and GIE = 1 and OVF_IE = 1 and OVF_PEND = 1` (R208). -/
def ovfEnabled (s : State) : Bool := s.inited && s.gie && s.ovfIE && s.ovfPend

/-- CAP is enabled: `INITED = 1 and GIE = 1 and CAP_IE = 1 and CAP_PEND = 1` (R208). -/
def capEnabled (s : State) : Bool := s.inited && s.gie && s.capIE && s.capPend

/-- `OVF_PEND = CAP_PEND = 0`: a quiescent state (R253). -/
def quiescent (s : State) : Bool := !s.ovfPend && !s.capPend

/-- `CTRL` as a dump shows it: bits 7:5 read as 0 (R38). -/
def ctrlByte (s : State) : Byte :=
  0#3 ++ (BitVec.ofBool s.capIE ++ (BitVec.ofBool s.ovfIE ++ (BitVec.ofBool s.ncEn ++
    (BitVec.ofBool (edgeBit s.edgeSel) ++ BitVec.ofBool s.run))))

/-- `FLAGS` as a dump shows it: bits 7:2 read as 0 (R38). -/
def flagsByte (s : State) : Byte :=
  0#6 ++ (BitVec.ofBool s.capPend ++ BitVec.ofBool s.ovfPend)

/-- Register `n` of a dump, by R20's numbers 0 to 10, zero-extended to 16 bits. -/
def dumpRegister (n : Nat) (s : State) : Option Count :=
  match n with
  | 0  => some s.cnt
  | 1  => some s.icr
  | 2  => some s.ovh
  | 3  => some (s.head.setWidth 16)
  | 4  => some (s.tail.setWidth 16)
  | 5  => some s.dropped
  | 6  => some ((ctrlByte s).setWidth 16)
  | 7  => some ((flagsByte s).setWidth 16)
  | 8  => some ((BitVec.ofBool s.gie).setWidth 16)
  | 9  => some ((BitVec.ofBool s.pin).setWidth 16)
  | 10 => some ((BitVec.ofBool s.inited).setWidth 16)
  | _  => none

end Sys2Proof.Machine
end

