-- ==== Sys2Proof/Machine/Ops.lean ====
section
/-! DEFINITION. The named operations over the slots, the queue and the outcome of a step (spec/20_memory.md R61, R62; spec/41_capture_source.md R143; spec/60_exceptions.md R203, R208, R209). -/

namespace Sys2Proof.Machine

/-- The three outcomes of an operation (R16). -/
abbrev Outcome := Host.Outcome State Fault Refusal

/-- The canonical form: slot indices strictly rising. What an unlisted index reads as is "no value", so no
entry equals it. -/
abbrev Memory.wf (m : Memory) : Prop := m.Pairwise (fun x y => x.1 < y.1)

/-- What some CAP has written to slot `a` since reset, if any has. -/
def Memory.read (m : Memory) (a : Nat) : Option CaptureEvent :=
  match m with
  | [] => none
  | (k, ev) :: rest => if k = a then some ev else Memory.read rest a

/-- Slot `a` now holds `ev`. -/
def Memory.write (m : Memory) (a : Nat) (ev : CaptureEvent) : Memory :=
  match m with
  | [] => [(a, ev)]
  | (k, x) :: rest =>
    if a < k then (a, ev) :: (k, x) :: rest
    else if a = k then (a, ev) :: rest
    else (k, x) :: Memory.write rest a ev

/-- What slot `i` holds: what was last written there, else the unspecified value drawn at reset (R28, R45). -/
def slotValue (i : Index) (s : State) : CaptureEvent :=
  match Memory.read s.buf i.toNat with
  | some ev => ev
  | none => Config.unwrittenSlot i.toNat

/-- `SlotRead(i)` (R15, R61). It has no side effect (R66). -/
def slotRead (i : Index) (s : State) : Except Fault CaptureEvent :=
  if slotExists s.config i then .ok (slotValue i s) else .error .noSuchSlot

/-- `SlotWrite(i, ev)` (R15, R61). -/
def slotWrite (i : Index) (ev : CaptureEvent) (s : State) : Except Fault State :=
  if slotExists s.config i then .ok { s with buf := Memory.write s.buf i.toNat ev }
  else .error .noSuchSlot

/-- `enqueue(ev)` (R143): count the loss when full; else first the slot, then the new head (R69). -/
def enqueue (ev : CaptureEvent) (s : State) : Except Fault State :=
  let next := advance s.config s.head
  if next = s.tail then .ok { s with dropped := s.dropped + 1#16 }
  else
    match slotWrite s.head ev s with
    | .ok t => .ok { t with head := next }
    | .error f => .error f

/-- The check-and-take of POP (R171): the slot is copied out first, then freed (R70). -/
def dequeue (s : State) : Except Fault (State × Option CaptureEvent) :=
  if s.head = s.tail then .ok (s, none)
  else
    match slotRead s.tail s with
    | .ok ev => .ok ({ s with tail := advance s.config s.tail }, some ev)
    | .error f => .error f

/-- The event CAP composes from the armed polarity, the latch, the overflow flag and the stored count
(R145 steps 1 to 5). -/
def captureEvent (s : State) : CaptureEvent :=
  { ticks := abstick (adjust s.ovfPend s.icr s.ovh) s.icr, edge := s.edgeSel }

/-- The state with the response `r` of the operation just Done (R16, R96). -/
def respond (r : Response) (s : State) : State := { s with response := r }

/-- Taking an interrupt (R208, R209): a service runs exactly when its dispatch condition holds, else the
step does not exist. "Entry saves nothing and changes no mode bit, no mask and no stack"; the service is
one atomic step and "the end of the step is the return". -/
def takeInterrupt (enabled : Bool) (service : State → Except Fault State) (s : State) : Outcome :=
  if enabled then
    match service s with
    | .ok t => .next (respond .nothing t)
    | .error f => .fault f
  else .refused .notEnabled

/-- The admission of the consumer commands: `INITED = 1`, otherwise `refuse NotInitialised` (R203). -/
def whenInitialised (s : State) (command : Outcome) : Outcome :=
  if s.inited then command else .refused .notInitialised

end Sys2Proof.Machine
end

