-- ==== Sys2Proof/Machine/BringUp.lean ====
section
/-! DEFINITION. The bring-up commands INIT and GIE (spec/43_initialization.md R190, R191), and building the machine from its parameters (spec/00_scope.md R6, spec/60_exceptions.md R203). -/

namespace Sys2Proof.Machine

/-- What INIT writes (R190). `BUF`, `ICR`, `PIN` and `GIE` are not written. -/
def onInitialize (s : State) : State :=
  { s with
    ovfPend := false
    capPend := false
    head    := 0x00#8
    tail    := 0x00#8
    dropped := 0x0000#16
    ovh     := 0x0000#16
    cnt     := 0x0000#16
    edgeSel := s.config.initEdge
    ncEn    := s.config.noiseFilter
    run     := true
    ovfIE   := true
    capIE   := true
    inited  := true }

/-- INIT (R190): the admission is checked in R190's order. -/
def execInit (s : State) : Outcome :=
  if s.inited then .refused .initTwice
  else if s.gie then .refused .initWithInterruptsEnabled
  else .next (respond .nothing (onInitialize s))

/-- GIE v (R191): "`GIE 0` is always admitted. `GIE 1` needs `INITED = 1`". -/
def execGie (v : Bool) (s : State) : Outcome :=
  if v && !s.inited then .refused .notInitialised
  else .next (respond .nothing { s with gie := v })

/-- `k` where the capacity is `2^k` with `k` in 0..8 (R6). -/
def capacityLog2Of (n : Nat) : Option (Fin 9) :=
  match n with
  | 1   => some 0
  | 2   => some 1
  | 4   => some 2
  | 8   => some 3
  | 16  => some 4
  | 32  => some 5
  | 64  => some 6
  | 128 => some 7
  | 256 => some 8
  | _   => none

/-- Building the machine: "Misconfiguration (non-power-of-two or too-large capacity) is rejected at build
time, not at runtime" (R6, R203); what is built stands at reset. -/
def build (p : Parameters) (d : ResetDraw) : Outcome :=
  match capacityLog2Of p.capacity with
  | some k =>
    .next (State.atReset
      { capacityLog2 := k, noiseFilter := p.noiseFilter, initEdge := p.initEdge, recapture := p.recapture } d)
  | none => .refused .badConfiguration

end Sys2Proof.Machine
end

