-- ==== Sys2Proof/Machine/CaptureSource.lean ====
section
/-! DEFINITION. The two interrupt services of the producer context: OVF and CAP (spec/41_capture_source.md R144, R145). -/

namespace Sys2Proof.Machine

/-- `onOverflow()` (R144): the wrap is consumed and counted modulo `2^16`. -/
def onOverflow (s : State) : Except Fault State :=
  .ok { s with ovfPend := false, ovh := s.ovh + 1#16 }

/-- OVF (R144). -/
def execOvf (s : State) : Outcome := takeInterrupt (ovfEnabled s) onOverflow s

/-- `onCapture()` (R145): compose the event, enqueue it or count the drop; then always clear `CAP_PEND`
and arm the opposite polarity. -/
def onCapture (s : State) : Except Fault State :=
  match enqueue (captureEvent s) s with
  | .ok t => .ok { t with capPend := false, edgeSel := oppositeEdge s.edgeSel }
  | .error f => .error f

/-- CAP (R145). -/
def execCap (s : State) : Outcome := takeInterrupt (capEnabled s) onCapture s

end Sys2Proof.Machine
end

