-- ==== Sys2Proof/Machine/Consumer.lean ====
section
/-! DEFINITION. The consumer commands: AVAIL, POP and DROPPED (spec/42_event_queue_consumer_api.md R170 to R173). -/

namespace Sys2Proof.Machine

/-- AVAIL (R170): `HEAD != TAIL`; "pure hint; does not consume". -/
def execAvail (s : State) : Outcome :=
  whenInitialised s (.next (respond (.avail (availWord (!isEmpty s))) s))

/-- POP (R171). -/
def execPop (s : State) : Outcome :=
  whenInitialised s
    (match dequeue s with
     | .ok (t, ev) => .next (respond (.popped (popWord ev)) t)
     | .error f => .fault f)

/-- DROPPED (R172): "reading does not clear the counter". -/
def execDropped (s : State) : Outcome :=
  whenInitialised s (.next (respond (.count s.dropped) s))

end Sys2Proof.Machine
end

