-- ==== Sys2Proof/Machine/Counter.lean ====
section
/-! DEFINITION. The two hardware agents: TICK and PIN (spec/40_counter_and_edge_detector.md R120, R121). -/

namespace Sys2Proof.Machine

/-- One increment of the hardware counter (R120): while `RUN = 1`, `CNT` counts, and at 0xFFFF it wraps to
0x0000 and sets `OVF_PEND`; TICK never clears the flag. -/
def countTick (s : State) : State :=
  { s with
    cnt := if s.run then (if s.cnt = 0xFFFF#16 then 0x0000#16 else s.cnt + 1#16) else s.cnt
    ovfPend := s.ovfPend || (s.run && decide (s.cnt = 0xFFFF#16)) }

/-- TICK (R120): always admitted. -/
def execTick (s : State) : Outcome := .next (respond .nothing (countTick s))

/-- The monitored input takes level `v` and the edge detector acts on it (R121): a transition of the armed
polarity sets `CAP_PEND` and, if the latch is open, latches `CNT` as it stands; anything else changes at most
`PIN`. -/
def detectEdge (v : Bool) (s : State) : State :=
  { s with
    pin := v
    icr := if qualifies v s && latchOpen s then s.cnt else s.icr
    capPend := s.capPend || qualifies v s }

/-- PIN v (R121): always admitted. -/
def execPin (v : Bool) (s : State) : Outcome := .next (respond .nothing (detectEdge v s))

end Sys2Proof.Machine
end

