-- ==== Sys2Proof/Machine/Dispatch.lean ====
section
/-! DEFINITION. exec: one arm per operation (spec/30_encoding.md R93). -/

namespace Sys2Proof.Machine

def exec (i : Instr) (s : State) : Host.Outcome State Fault Refusal :=
  match i with
  | .tick => Sys2Proof.Machine.execTick s
  | .pin v => Sys2Proof.Machine.execPin v s
  | .ovf => Sys2Proof.Machine.execOvf s
  | .cap => Sys2Proof.Machine.execCap s
  | .avail => Sys2Proof.Machine.execAvail s
  | .pop => Sys2Proof.Machine.execPop s
  | .dropped => Sys2Proof.Machine.execDropped s
  | .init => Sys2Proof.Machine.execInit s
  | .gie v => Sys2Proof.Machine.execGie v s

end Sys2Proof.Machine
end

