-- ==== Sys2Proof/WellFormed.lean ====
section
/-! DEFINITION. Well-formedness: of the build-time parameters (spec/00_scope.md R6), of an operation word (spec/30_encoding.md R91, R92, R95) and of an operation (R94). -/

namespace Sys2Proof

/-- "`CAPACITY = 2^k` with `k` in 0..8, that is one of 1, 2, 4, 8, 16, 32, 64, 128, 256" (R6). -/
def Parameters.wellFormed (p : Parameters) : Bool :=
  [1, 2, 4, 8, 16, 32, 64, 128, 256].contains p.capacity

/-- A word is legal unless R95 reserves it, clause by clause in R95's order: `grp` 0 and 5 to 15
whole; `fn` 2 to 7 of `grp` 1, 2 and 4; `fn` 3 to 7 of `grp` 3; and the format-N words with
`w[0] = 1`, format V being `fn` 1 of `grp` 1 (`PIN`) and of `grp` 4 (`GIE`). -/
def wordLegal (w : Byte) : Bool :=
  let grp := (w.extractLsb' 4 4).toNat
  let fn  := (w.extractLsb' 1 3).toNat
  let formatV := (grp == 1 && fn == 1) || (grp == 4 && fn == 1)
  !(grp == 0 || decide (5 ≤ grp)) &&
  !((grp == 1 || grp == 2 || grp == 4) && decide (2 ≤ fn)) &&
  !(grp == 3 && decide (3 ≤ fn)) &&
  (formatV || !w.getLsbD 0)

/-- Every operation is well formed: its operand, where it has one, is one bit and "both values of `v`
are legal" (R92); no operation has a register, memory or addressing-mode operand (R94). -/
def Instr.wellFormed (i : Instr) : Bool :=
  match i with
  | .tick | .ovf | .cap | .avail | .pop | .dropped | .init => true
  | .pin v => v || !v
  | .gie v => v || !v

end Sys2Proof
end

