-- ==== Sys2Proof/Decode.lean ====
section
/-! DEFINITION. Decoder, encoder and opcode table (spec/30_encoding.md R91 to R95, R99, R103). -/

namespace Sys2Proof

/-- Why a word is not an operation: R95 has one reason. -/
inductive DecodeReject where
  /-- "A reserved word is refused with reason `ReservedOp` and changes no state" (R95). -/
  | reservedOp
deriving DecidableEq, Repr

/-- `grp = w[7:4]` (R91). -/
def wordGrp (w : Byte) : BitVec 4 := w.extractLsb' 4 4

/-- `fn = w[3:1]` (R91). -/
def wordFn (w : Byte) : BitVec 3 := w.extractLsb' 1 3

/-- `v = w[0]` (R91, R94). -/
def wordV (w : Byte) : Bool := w.getLsbD 0

/-- "Decoding is a total function on the 256 words" (R99); every word R93 does not list is rejected by
name (R95). -/
def decode (w : Byte) : Except DecodeReject Instr :=
  match (wordGrp w).toNat, (wordFn w).toNat, wordV w with
  | 1, 0, false => .ok .tick
  | 1, 1, v     => .ok (.pin v)
  | 2, 0, false => .ok .ovf
  | 2, 1, false => .ok .cap
  | 3, 0, false => .ok .avail
  | 3, 1, false => .ok .pop
  | 3, 2, false => .ok .dropped
  | 4, 0, false => .ok .init
  | 4, 1, v     => .ok (.gie v)
  | _, _, _     => .error .reservedOp

/-- The word `grp ‖ fn ‖ v` (R91). -/
def opWord (grp : BitVec 4) (fn : BitVec 3) (v : Bool) : Byte :=
  (grp ++ fn) ++ BitVec.ofBool v

/-- The operation's word (R92, R93): format N is `grp ‖ fn ‖ 0`, format V is `grp ‖ fn ‖ v`. -/
def encode (i : Instr) : Byte :=
  match i with
  | .tick    => opWord 1 0 false
  | .pin v   => opWord 1 1 v
  | .ovf     => opWord 2 0 false
  | .cap     => opWord 2 1 false
  | .avail   => opWord 3 0 false
  | .pop     => opWord 3 1 false
  | .dropped => opWord 3 2 false
  | .init    => opWord 4 0 false
  | .gie v   => opWord 4 1 v

/-- One row of spec/opcode_table.json. -/
structure OpcodeRow where
  mnemonic : String
  formatV  : Bool
  matchBits : Byte
  maskBits  : Byte
deriving DecidableEq, Repr

/-- The rows of spec/opcode_table.json: "mask 0xFF for format N, 0xFE for format V" (R93). -/
def opcodeTable : List OpcodeRow :=
  [ ⟨"TICK",    false, 0x10, 0xFF⟩
  , ⟨"PIN",     true,  0x12, 0xFE⟩
  , ⟨"OVF",     false, 0x20, 0xFF⟩
  , ⟨"CAP",     false, 0x22, 0xFF⟩
  , ⟨"AVAIL",   false, 0x30, 0xFF⟩
  , ⟨"POP",     false, 0x32, 0xFF⟩
  , ⟨"DROPPED", false, 0x34, 0xFF⟩
  , ⟨"INIT",    false, 0x40, 0xFF⟩
  , ⟨"GIE",     true,  0x42, 0xFE⟩ ]

/-- The word `w` is one of the row's words. -/
def OpcodeRow.hits (r : OpcodeRow) (w : Byte) : Bool := (w &&& r.maskBits) == r.matchBits

/-- The operation's mnemonic, as the table has it (R93, R100). -/
def mnemonicOf (i : Instr) : String :=
  match i with
  | .tick    => "TICK"
  | .pin _   => "PIN"
  | .ovf     => "OVF"
  | .cap     => "CAP"
  | .avail   => "AVAIL"
  | .pop     => "POP"
  | .dropped => "DROPPED"
  | .init    => "INIT"
  | .gie _   => "GIE"

/-- The agent that performs the operation (R93). -/
def agentOf (i : Instr) : Agent :=
  match i with
  | .tick => .counter
  | .pin _ => .environment
  | .ovf | .cap => .producer
  | .avail | .pop | .dropped => .consumer
  | .init | .gie _ => .bringUp

/-- The operation word among the low `nbits` bits of `w`: every operation is one 8-bit word (R103), so a
bit above the eighth belongs to no part of it. Assumption 16. -/
def tableWord (nbits w : Nat) : Byte := BitVec.ofNat 8 (w % 2 ^ nbits)

/-- What the decoder reads from a row of the opcode table (the host's name). -/
def decodeTableWord (nbits w : Nat) : Option Instr :=
  match decode (tableWord nbits w) with
  | .ok i => some i
  | .error _ => none

end Sys2Proof
end

