-- ==== Sys2Proof/Machine/Fetch.lean ====
section
/-! DEFINITION. The next operation of the run (spec/10_state.md R41, R46; spec/20_memory.md R68). VLCAP fetches no instruction: what stands in a program counter's place is the schedule. -/

namespace Sys2Proof.Machine

/-- The next operation and the state that has taken it from the schedule: the oldest queued word, decoded
(R99); where none is queued, the agents' free choice (R46, R122, R207). Assumption 1. -/
def fetch (s : State) : Except DecodeReject (Instr × State) :=
  match s.schedule with
  | [] => .ok (Config.freeOperation s.turn, { s with turn := s.turn + 1 })
  | w :: rest =>
    match decode w with
    | .ok i => .ok (i, { s with schedule := rest })
    | .error e => .error e

/-- `s` with the word `w` queued as the very next operation. -/
def queueWord (w : Byte) (s : State) : State := { s with schedule := w :: s.schedule }

end Sys2Proof.Machine
end

