-- ==== Sys2Proof/Machine/Step.lean ====
section
/-! DEFINITION. One step of the machine: one atomic operation (spec/20_memory.md R68), the next of the schedule. -/

namespace Sys2Proof.Machine

/-- One step: the next operation of the run, whole. A reserved word is refused with `ReservedOp` (R95). -/
def step (s : State) : Host.Outcome State Fault Refusal :=
  match fetch s with
  | .ok (i, t) => exec i t
  | .error .reservedOp => .refused .reservedOp

/-- `s` with the operation of an opcode-table row queued as the very next one (the host's name). -/
def State.withFetchWord (s : State) (nbits w : Nat) : State := queueWord (tableWord nbits w) s

end Sys2Proof.Machine
end

