-- ==== Sys2Proof/Machine/Trace.lean ====
section
/-! DEFINITION. Traces: lists of operations in the run's total order, what a run enqueues, delivers, wraps and latches, and the written forms (spec/20_memory.md R68, R76; spec/30_encoding.md R100 to R102; spec/70_reset_and_hazards.md R242 to R244). -/

namespace Sys2Proof.Machine

/-- The state after one operation as R16 gives it: new when Done, unchanged otherwise ("A refusal changes no
state", R203; "the step does not exist", R208; after the model's own fault, assumption 19). -/
def stateAfter (i : Instr) (s : State) : State :=
  match exec i s with
  | .next t => t
  | .fault _ => s
  | .refused _ => s

/-- A finite trace of operations all of which are Done; the first that is not ends it. -/
def runOps (ops : List Instr) (s : State) : Outcome :=
  match ops with
  | [] => .next s
  | i :: rest =>
    match exec i s with
    | .next t => runOps rest t
    | .fault f => .fault f
    | .refused r => .refused r

/-- Slot `(TAIL + j) & MASK`, the `j`-th oldest of the queue (R47 (c)). -/
def slotAt (j : Nat) (s : State) : Index := (s.tail + BitVec.ofNat 8 j) &&& mask s.config

/-- The events that wait in the queue, oldest first (R47 (c)). -/
def queue (s : State) : List CaptureEvent :=
  (List.range (occupancy s)).map (fun j => slotValue (slotAt j s) s)

/-- The event the operation enqueues: CAP's, unless the queue is full (R143). -/
def enqueuedBy (i : Instr) (s : State) : List CaptureEvent :=
  if i = .cap ∧ isFull s = false then [captureEvent s] else []

/-- The event a response delivers: that of a POP which is not `none` (R96). -/
def deliveredBy (r : Response) : List CaptureEvent :=
  match r with
  | .popped w => (popEvent w).toList
  | .nothing => []
  | .avail _ => []
  | .count _ => []

/-- The events of the successful enqueues of a trace, in order (R76). -/
def enqueuedIn (ops : List Instr) (s : State) : List CaptureEvent :=
  match ops with
  | [] => []
  | i :: rest => enqueuedBy i s ++ enqueuedIn rest (stateAfter i s)

/-- The events the POPs of a trace returned, in order (R76). -/
def deliveredIn (ops : List Instr) (s : State) : List CaptureEvent :=
  match ops with
  | [] => []
  | i :: rest => deliveredBy (stateAfter i s).response ++ deliveredIn rest (stateAfter i s)

/-- The polarities the CAPs of a trace reported, in order, drops among them (R145). -/
def capturedEdges (ops : List Instr) (s : State) : List Edge :=
  match ops with
  | [] => []
  | i :: rest => (if i = .cap then [s.edgeSel] else []) ++ capturedEdges rest (stateAfter i s)

/-- The operation wraps the counter (R120). -/
def wrapsBy (i : Instr) (s : State) : Bool :=
  match i with
  | .tick => s.run && decide (s.cnt = 0xFFFF#16)
  | .pin _ | .ovf | .cap | .avail | .pop | .dropped | .init | .gie _ => false

/-- The operation moves `CNT` into the latch (R121). -/
def latchesBy (i : Instr) (s : State) : Bool :=
  match i with
  | .pin v => qualifies v s && latchOpen s
  | .tick | .ovf | .cap | .avail | .pop | .dropped | .init | .gie _ => false

/-- How many times the counter wraps in a trace. -/
def wrapsIn (ops : List Instr) (s : State) : Nat :=
  match ops with
  | [] => 0
  | i :: rest => (wrapsBy i s).toNat + wrapsIn rest (stateAfter i s)

/-- How many wraps of a trace are absorbed into an `OVF_PEND` that was already 1 (R243). -/
def lostWrapsIn (ops : List Instr) (s : State) : Nat :=
  match ops with
  | [] => 0
  | i :: rest => (wrapsBy i s && s.ovfPend).toNat + lostWrapsIn rest (stateAfter i s)

/-- How many times a trace writes the latch. -/
def latchesIn (ops : List Instr) (s : State) : Nat :=
  match ops with
  | [] => 0
  | i :: rest => (latchesBy i s).toNat + latchesIn rest (stateAfter i s)

/-- The pseudo-operation `TICKS n` (R101). -/
def ticksOps (n : Nat) : List Instr := List.replicate n .tick

/-- The pseudo-operation `RISE` (R101). -/
def riseOps : List Instr := [.pin true]

/-- The pseudo-operation `FALL` (R101). -/
def fallOps : List Instr := [.pin false]

/-- The pseudo-operation `ENQ t, e`: the function `enqueue` "and nothing else" (R101). DESIGN CHOICE, safe: where
`enqueue` stops because `HEAD` is above `MASK`, for which the spec gives no effect, the state is unchanged.
Assumption 19. -/
def enqEvent (ev : CaptureEvent) (s : State) : State :=
  match enqueue ev s with
  | .ok t => t
  | .error _ => s

/-- `ENQ` of each event in turn. -/
def enqAll (evs : List CaptureEvent) (s : State) : State :=
  match evs with
  | [] => s
  | ev :: rest => enqAll rest (enqEvent ev s)

/-- The characters of `n` hexadecimal digits, capitals, most significant first (R102). -/
def hexDigits (n v : Nat) : List Char :=
  match n with
  | 0 => []
  | k + 1 => "0123456789ABCDEF".toList.getD (v / 16 ^ k % 16) '0' :: hexDigits k v

/-- The written form of an operation: the mnemonic, "with the immediate as a decimal digit after a space" (R100). -/
def writtenOp (i : Instr) : List Char :=
  match i with
  | .pin v | .gie v => (mnemonicOf i).toList ++ [' ', if v then '1' else '0']
  | .tick | .ovf | .cap | .avail | .pop | .dropped | .init => (mnemonicOf i).toList

/-- The written form of a response, after `->` (R100); empty where an operation returns nothing. The braces
are U+007B and U+007D. -/
def writtenResponse (r : Response) : List Char :=
  match r with
  | .nothing => []
  | .avail a => "-> ".toList ++ Nat.toDigits 10 a.toNat
  | .count d => "-> 0x".toList ++ hexDigits 4 d.toNat
  | .popped w =>
    match popEvent w with
    | none => "-> none".toList
    | some ev =>
      "-> ".toList ++ [Char.ofNat 0x7B] ++ "ticks=".toList ++ Nat.toDigits 10 ev.ticks.toNat ++
        ", edge=".toList ++
        (match ev.edge with
         | .rising => "Rising".toList
         | .falling => "Falling".toList) ++ [Char.ofNat 0x7D]

end Sys2Proof.Machine
end

