-- ==== Sys2Proof/Safety.lean ====
section
/-! DEFINITION. What counts as a safe run: the invariant of every reachable state (spec/10_state.md R47), reachability, executions and fairness (spec/70_reset_and_hazards.md R251), and timely service of a capture (R242). -/

namespace Sys2Proof.Machine

/-- The invariant: before INIT, R45's initial mode; from INIT on, R47 (a) to (d); at all times, the slots in
canonical form and none outside the address space (R60). -/
structure Inv (s : State) : Prop where
  bufWf      : Memory.wf s.buf
  bufInSpace : ∀ x ∈ s.buf, x.1 < capacity s.config
  beforeInit : s.inited = false → s.gie = false ∧ s.ovfIE = false ∧ s.capIE = false
  armed      : s.inited = true → s.run = true ∧ s.ovfIE = true ∧ s.capIE = true
  headInMask : s.inited = true → s.head ≤ mask s.config
  tailInMask : s.inited = true → s.tail ≤ mask s.config
  queuedWritten : s.inited = true →
    ∀ j, j < occupancy s → (Memory.read s.buf (slotAt j s).toNat).isSome = true

/-- The states of the runs that start at reset, for every configuration, every values drawn and every
schedule (R46): the environment may queue any words, and the machine steps. -/
inductive Reachable : State → Prop where
  | reset (c : Config) (d : ResetDraw) : Reachable (State.atReset c d)
  | queued {s : State} (words : List Byte) : Reachable s → Reachable { s with schedule := words }
  | stepped {s t : State} : Reachable s → step s = .next t → Reachable t

/-- An unending execution: operation `ops n` is Done in state `at_ n` and gives `at_ (n + 1)` (R253). -/
def Execution (ops : Nat → Instr) (at_ : Nat → State) : Prop :=
  ∀ n, exec (ops n) (at_ n) = .next (at_ (n + 1))

/-- Weak fairness of the interrupt dispatcher: "a service that stays enabled is eventually taken" (R251). -/
def WeaklyFair (ops : Nat → Instr) (at_ : Nat → State) : Prop :=
  (∀ n, (∀ m, n ≤ m → capEnabled (at_ m) = true) → ∃ m, n ≤ m ∧ ops m = .cap) ∧
  (∀ n, (∀ m, n ≤ m → ovfEnabled (at_ m) = true) → ∃ m, n ≤ m ∧ ops m = .ovf)

/-- R242's sufficient conditions for a right tick, of a run from `s₀`: `before`, the step `PIN v` that latches
an edge, then `during` with no other latch, up to a state `s₃` where CAP is enabled. -/
structure TimelyCapture (before : List Instr) (v : Bool) (during : List Instr) (s₀ s₁ s₂ s₃ : State) : Prop where
  runBefore : runOps before s₀ = .next s₁
  latches   : latchesBy (.pin v) s₁ = true
  latch     : exec (.pin v) s₁ = .next s₂
  runDuring : runOps during s₂ = .next s₃
  kept      : latchesIn during s₂ = 0
  enabled   : capEnabled s₃ = true
  /-- (i) up to the CAP no wrap was absorbed into a flag already set. -/
  noLostWrap : lostWrapsIn (before ++ [.pin v] ++ during) s₀ = 0
  /-- (ii) at most one wrap between the latch and the CAP. -/
  oneWrap   : wrapsIn during s₂ ≤ 1
  /-- (ii) if one, the latched value is at or above the midpoint and that wrap's OVF is not served. -/
  wrapAfter : wrapsIn during s₂ = 1 → 0x8000 ≤ s₃.icr.toNat ∧ s₃.ovfPend = true
  /-- (iii) if a wrap before the latch is still unserved, the latched value is below the midpoint. -/
  wrapBefore : wrapsIn during s₂ = 0 → s₃.ovfPend = true → s₃.icr.toNat < 0x8000

end Sys2Proof.Machine
end

