-- ==== Sys2Proof/Laws/State.lean ====
section
/-! SUPPORT. The fields of a state after the named updates `respond` and `queueWord`: one lemma per field. -/

namespace Sys2Proof.Machine

@[simp] theorem respond_config (r : Response) (s : State) : (respond r s).config = s.config := rfl
@[simp] theorem respond_cnt (r : Response) (s : State) : (respond r s).cnt = s.cnt := rfl
@[simp] theorem respond_icr (r : Response) (s : State) : (respond r s).icr = s.icr := rfl
@[simp] theorem respond_ovh (r : Response) (s : State) : (respond r s).ovh = s.ovh := rfl
@[simp] theorem respond_head (r : Response) (s : State) : (respond r s).head = s.head := rfl
@[simp] theorem respond_tail (r : Response) (s : State) : (respond r s).tail = s.tail := rfl
@[simp] theorem respond_dropped (r : Response) (s : State) : (respond r s).dropped = s.dropped := rfl
@[simp] theorem respond_run (r : Response) (s : State) : (respond r s).run = s.run := rfl
@[simp] theorem respond_edgeSel (r : Response) (s : State) : (respond r s).edgeSel = s.edgeSel := rfl
@[simp] theorem respond_ncEn (r : Response) (s : State) : (respond r s).ncEn = s.ncEn := rfl
@[simp] theorem respond_ovfIE (r : Response) (s : State) : (respond r s).ovfIE = s.ovfIE := rfl
@[simp] theorem respond_capIE (r : Response) (s : State) : (respond r s).capIE = s.capIE := rfl
@[simp] theorem respond_ovfPend (r : Response) (s : State) : (respond r s).ovfPend = s.ovfPend := rfl
@[simp] theorem respond_capPend (r : Response) (s : State) : (respond r s).capPend = s.capPend := rfl
@[simp] theorem respond_gie (r : Response) (s : State) : (respond r s).gie = s.gie := rfl
@[simp] theorem respond_pin (r : Response) (s : State) : (respond r s).pin = s.pin := rfl
@[simp] theorem respond_inited (r : Response) (s : State) : (respond r s).inited = s.inited := rfl
@[simp] theorem respond_buf (r : Response) (s : State) : (respond r s).buf = s.buf := rfl
@[simp] theorem respond_schedule (r : Response) (s : State) : (respond r s).schedule = s.schedule := rfl
@[simp] theorem respond_turn (r : Response) (s : State) : (respond r s).turn = s.turn := rfl
@[simp] theorem respond_response (r : Response) (s : State) : (respond r s).response = r := rfl

@[simp] theorem queueWord_config (w : Byte) (s : State) : (queueWord w s).config = s.config := rfl
@[simp] theorem queueWord_cnt (w : Byte) (s : State) : (queueWord w s).cnt = s.cnt := rfl
@[simp] theorem queueWord_icr (w : Byte) (s : State) : (queueWord w s).icr = s.icr := rfl
@[simp] theorem queueWord_ovh (w : Byte) (s : State) : (queueWord w s).ovh = s.ovh := rfl
@[simp] theorem queueWord_head (w : Byte) (s : State) : (queueWord w s).head = s.head := rfl
@[simp] theorem queueWord_tail (w : Byte) (s : State) : (queueWord w s).tail = s.tail := rfl
@[simp] theorem queueWord_dropped (w : Byte) (s : State) : (queueWord w s).dropped = s.dropped := rfl
@[simp] theorem queueWord_run (w : Byte) (s : State) : (queueWord w s).run = s.run := rfl
@[simp] theorem queueWord_edgeSel (w : Byte) (s : State) : (queueWord w s).edgeSel = s.edgeSel := rfl
@[simp] theorem queueWord_ncEn (w : Byte) (s : State) : (queueWord w s).ncEn = s.ncEn := rfl
@[simp] theorem queueWord_ovfIE (w : Byte) (s : State) : (queueWord w s).ovfIE = s.ovfIE := rfl
@[simp] theorem queueWord_capIE (w : Byte) (s : State) : (queueWord w s).capIE = s.capIE := rfl
@[simp] theorem queueWord_ovfPend (w : Byte) (s : State) : (queueWord w s).ovfPend = s.ovfPend := rfl
@[simp] theorem queueWord_capPend (w : Byte) (s : State) : (queueWord w s).capPend = s.capPend := rfl
@[simp] theorem queueWord_gie (w : Byte) (s : State) : (queueWord w s).gie = s.gie := rfl
@[simp] theorem queueWord_pin (w : Byte) (s : State) : (queueWord w s).pin = s.pin := rfl
@[simp] theorem queueWord_inited (w : Byte) (s : State) : (queueWord w s).inited = s.inited := rfl
@[simp] theorem queueWord_buf (w : Byte) (s : State) : (queueWord w s).buf = s.buf := rfl
@[simp] theorem queueWord_schedule (w : Byte) (s : State) : (queueWord w s).schedule = w :: s.schedule := rfl
@[simp] theorem queueWord_turn (w : Byte) (s : State) : (queueWord w s).turn = s.turn := rfl
@[simp] theorem queueWord_response (w : Byte) (s : State) : (queueWord w s).response = s.response := rfl

@[simp] theorem respond_respond (q r : Response) (s : State) : respond q (respond r s) = respond q s := rfl

end Sys2Proof.Machine
end

