-- ==== Sys2Proof/Laws/Memory.lean ====
section
/-! SUPPORT. The slots: a read after a write, and the canonical form of `Memory` kept by every write. -/

namespace Sys2Proof.Machine

@[simp] theorem read_nil (a : Nat) : Memory.read [] a = none := rfl

theorem read_write_same (m : Memory) (a : Nat) (ev : CaptureEvent) :
    Memory.read (Memory.write m a ev) a = some ev := by
  induction m with
  | nil => simp [Memory.write, Memory.read]
  | cons x rest ih =>
    obtain ⟨k, y⟩ := x
    simp only [Memory.write]
    split
    · simp [Memory.read]
    · split
      · simp [Memory.read]
      · rename_i h1 h2
        simp [Memory.read, Ne.symm h2, ih]

theorem read_write_ne (m : Memory) {a b : Nat} (ev : CaptureEvent) (h : b ≠ a) :
    Memory.read (Memory.write m a ev) b = Memory.read m b := by
  induction m with
  | nil => simp [Memory.write, Memory.read, Ne.symm h]
  | cons x rest ih =>
    obtain ⟨k, y⟩ := x
    simp only [Memory.write]
    split
    · simp [Memory.read, Ne.symm h]
    · split
      · rename_i h1 h2
        subst h2
        simp [Memory.read, Ne.symm h]
      · simp [Memory.read, ih]

theorem mem_write {m : Memory} {a : Nat} {ev : CaptureEvent} {x : Nat × CaptureEvent}
    (h : x ∈ Memory.write m a ev) : x = (a, ev) ∨ x ∈ m := by
  induction m with
  | nil => exact .inl (by simpa [Memory.write] using h)
  | cons y rest ih =>
    obtain ⟨k, z⟩ := y
    simp only [Memory.write] at h
    split at h
    · rcases List.mem_cons.1 h with h | h
      · exact .inl h
      · exact .inr h
    · split at h
      · rcases List.mem_cons.1 h with h | h
        · exact .inl h
        · exact .inr (List.mem_cons_of_mem _ h)
      · rcases List.mem_cons.1 h with h | h
        · exact .inr (h ▸ List.mem_cons_self)
        · exact (ih h).imp_right (List.mem_cons_of_mem _)

/-- Every write keeps the canonical form. -/
theorem write_wf {m : Memory} (h : Memory.wf m) (a : Nat) (ev : CaptureEvent) :
    Memory.wf (Memory.write m a ev) := by
  induction m with
  | nil => simp [Memory.write]
  | cons y rest ih =>
    obtain ⟨k, z⟩ := y
    have hk : ∀ x ∈ rest, k < x.1 := (List.pairwise_cons.1 h).1
    simp only [Memory.write]
    split
    · rename_i hak
      refine List.pairwise_cons.2 ⟨fun x hx => ?_, h⟩
      rcases List.mem_cons.1 hx with rfl | hx
      · exact hak
      · exact lt_trans hak (hk x hx)
    · split
      · rename_i hak
        subst hak
        exact List.pairwise_cons.2 ⟨fun x hx => hk x hx, h.of_cons⟩
      · rename_i h1 h2
        refine List.pairwise_cons.2 ⟨fun x hx => ?_, ih h.of_cons⟩
        rcases mem_write hx with rfl | hx
        · show k < a
          omega
        · exact hk x hx

end Sys2Proof.Machine
end

