-- ==== Sys2Proof/Laws/Operands.lean ====
section
/-! SUPPORT. Slot arithmetic in Nat: what the mask, the advance, the queue predicates and the slot order amount to (spec/00_scope.md R17 (d), spec/10_state.md R43). -/

namespace Sys2Proof.Machine

theorem capacity_pos (c : Config) : 0 < capacity c := Nat.two_pow_pos _

theorem capacity_dvd (c : Config) : capacity c ∣ 256 :=
  (Nat.pow_dvd_pow 2 (by have := c.capacityLog2.isLt; omega) : 2 ^ c.capacityLog2.val ∣ 2 ^ 8)

theorem capacity_le (c : Config) : capacity c ≤ 256 := Nat.le_of_dvd (by decide) (capacity_dvd c)

theorem mask_toNat (c : Config) : (mask c).toNat = capacity c - 1 := by
  have := capacity_le c
  have := capacity_pos c
  simp only [mask, BitVec.toNat_ofNat]
  omega

/-- Masking is the remainder by the capacity (R17 (d)). -/
theorem and_mask_toNat (c : Config) (x : Index) : (x &&& mask c).toNat = x.toNat % capacity c := by
  rw [BitVec.toNat_and, mask_toNat]
  exact Nat.and_two_pow_sub_one_eq_mod _ _

theorem advance_toNat (c : Config) (x : Index) :
    (advance c x).toNat = (x.toNat + 1) % capacity c := by
  rw [advance, and_mask_toNat, BitVec.toNat_add]
  exact Nat.mod_mod_of_dvd _ (capacity_dvd c)

theorem le_mask_iff (c : Config) (x : Index) : x ≤ mask c ↔ x.toNat < capacity c := by
  have := capacity_pos c
  rw [BitVec.le_def, mask_toNat]
  omega

theorem advance_le_mask (c : Config) (x : Index) : advance c x ≤ mask c := by
  rw [le_mask_iff, advance_toNat]
  exact Nat.mod_lt _ (capacity_pos c)

theorem slotExists_iff (c : Config) (i : Index) : slotExists c i = true ↔ i.toNat < capacity c := by
  simp [slotExists, le_mask_iff]

theorem occupancy_eq (s : State) :
    occupancy s = (s.head.toNat + (256 - s.tail.toNat)) % capacity s.config := by
  have h := s.tail.isLt
  rw [occupancy, and_mask_toNat, BitVec.toNat_sub, Nat.mod_mod_of_dvd _ (capacity_dvd s.config)]
  congr 1
  omega

theorem slotAt_toNat (j : Nat) (s : State) :
    (slotAt j s).toNat = (s.tail.toNat + j) % capacity s.config := by
  rw [slotAt, and_mask_toNat, BitVec.toNat_add, BitVec.toNat_ofNat,
    Nat.mod_mod_of_dvd _ (capacity_dvd s.config)]
  have : capacity s.config ∣ 2 ^ 8 := capacity_dvd s.config
  rw [Nat.add_mod, Nat.mod_mod_of_dvd _ this, ← Nat.add_mod]

theorem occupancy_lt (s : State) : occupancy s < capacity s.config := by
  rw [occupancy_eq]
  exact Nat.mod_lt _ (capacity_pos _)

/-- `HEAD` is the slot after the last of the queue. -/
theorem head_eq_slot (s : State) (h : s.head.toNat < capacity s.config) :
    s.head.toNat = (s.tail.toNat + occupancy s) % capacity s.config := by
  have ht := s.tail.isLt
  rw [occupancy_eq, Nat.add_mod_mod,
    show s.tail.toNat + (s.head.toNat + (256 - s.tail.toNat)) = s.head.toNat + 256 by omega]
  obtain ⟨q, hq⟩ := capacity_dvd s.config
  rw [hq, Nat.add_mul_mod_self_left, Nat.mod_eq_of_lt h]

/-- Within the mask, the queue is empty iff its occupancy is 0 (R43). -/
theorem occupancy_eq_zero (s : State) (hh : s.head.toNat < capacity s.config)
    (ht : s.tail.toNat < capacity s.config) : occupancy s = 0 ↔ s.head = s.tail := by
  constructor
  · intro h
    have := head_eq_slot s hh
    rw [h, Nat.add_zero, Nat.mod_eq_of_lt ht] at this
    exact BitVec.eq_of_toNat_eq this
  · intro h
    rw [occupancy_eq, h, show s.tail.toNat + (256 - s.tail.toNat) = 256 by omega]
    exact Nat.mod_eq_zero_of_dvd (capacity_dvd _)

theorem mod_add_one (a n : Nat) (hn : 0 < n) :
    (a + 1) % n = if a % n + 1 = n then 0 else a % n + 1 := by
  have h := Nat.mod_lt a hn
  rw [Nat.add_mod]
  split
  · rename_i h1
    rcases Nat.lt_or_ge 1 n with h2 | h2
    · rw [Nat.mod_eq_of_lt h2, h1, Nat.mod_self]
    · rw [show n = 1 by omega, Nat.mod_one]
  · rw [Nat.mod_eq_of_lt (show 1 < n by omega), Nat.mod_eq_of_lt (by omega)]

/-- Within the mask, the queue is full iff its occupancy is `CAPACITY - 1` (R43). -/
theorem isFull_iff (s : State) (hh : s.head.toNat < capacity s.config)
    (ht : s.tail.toNat < capacity s.config) :
    isFull s = true ↔ occupancy s + 1 = capacity s.config := by
  have hc := capacity_pos s.config
  have hlt := occupancy_lt s
  have hs := head_eq_slot s hh
  have key : (advance s.config s.head).toNat = (s.tail.toNat + (occupancy s + 1)) % capacity s.config := by
    rw [advance_toNat, hs, Nat.mod_add_mod, Nat.add_assoc]
  rw [isFull, decide_eq_true_eq, ← BitVec.toNat_inj, key]
  constructor
  · intro h
    by_contra hne
    have hlt' : occupancy s + 1 < capacity s.config := by omega
    rcases Nat.lt_or_ge (s.tail.toNat + (occupancy s + 1)) (capacity s.config) with h1 | h1
    · rw [Nat.mod_eq_of_lt h1] at h; omega
    · rw [Nat.mod_eq_sub_mod h1, Nat.mod_eq_of_lt (by omega)] at h; omega
  · intro h
    rw [h, Nat.add_mod_right, Nat.mod_eq_of_lt ht]

/-- Two different places of the queue are two different slots. -/
theorem slotAt_inj (s : State) {i j : Nat} (hi : i < capacity s.config) (hj : j < capacity s.config)
    (h : (slotAt i s).toNat = (slotAt j s).toNat) : i = j := by
  rw [slotAt_toNat, slotAt_toNat] at h
  have := Nat.ModEq.add_left_cancel' s.tail.toNat (h : _ ≡ _ [MOD capacity s.config])
  exact Nat.ModEq.eq_of_lt_of_lt this hi hj

/-- The absolute tick is the count above the latched value, with no overlap (R142). -/
theorem abstick_eq_append (a l : Count) : abstick a l = a ++ l := by
  have ha := a.isLt
  have hl := l.isLt
  apply BitVec.eq_of_toNat_eq
  rw [abstick, BitVec.toNat_append, BitVec.toNat_or, BitVec.toNat_shiftLeft, BitVec.toNat_setWidth,
    BitVec.toNat_setWidth, Nat.mod_eq_of_lt (by omega : a.toNat < 2 ^ 32),
    Nat.mod_eq_of_lt (by omega : l.toNat < 2 ^ 32), Nat.mod_eq_of_lt]
  rw [Nat.shiftLeft_eq]
  omega

/-- The event CAP composes, with the guard and the composition spelled out (R141, R142). -/
theorem captureEvent_eq (s : State) :
    captureEvent s =
      { ticks :=
          ((if s.ovfPend = true ∧ s.icr.toNat < 0x8000 then s.ovh + 1#16 else s.ovh) ++ s.icr)
        edge := s.edgeSel } := by
  rw [captureEvent, abstick_eq_append]
  simp only [adjust, guardMidpoint, BitVec.lt_def, BitVec.toNat_ofNat]

/-- The bits of an event's 33-bit value (R97). -/
theorem eventWord_bit (ev : CaptureEvent) (n : Nat) : (eventWord ev).getLsbD n =
    if n < 32 then ev.ticks.getLsbD n else decide (n = 32) && edgeBit ev.edge := by
  refine Eq.trans (@BitVec.getLsbD_append 1 32 n (BitVec.ofBool (edgeBit ev.edge)) ev.ticks) ?_
  by_cases hn : n < 32
  · simp [hn]
  · by_cases h2 : n = 32
    · subst h2; simp
    · simp only [hn, h2, if_false, decide_false, Bool.false_and]
      exact BitVec.getLsbD_of_ge _ _ (by omega)

/-- The bits of POP's response (R96). -/
theorem popWord_bit (ev : CaptureEvent) (n : Nat) : (popWord (some ev)).getLsbD n =
    if n < 33 then (eventWord ev).getLsbD n else decide (n = 33) := by
  refine Eq.trans (@BitVec.getLsbD_append 1 33 n 1#1 (eventWord ev)) ?_
  by_cases hn : n < 33
  · simp [hn]
  · by_cases h2 : n = 33
    · subst h2; simp
    · simp [hn, h2]; omega

theorem isFull_eq_true_iff (s : State) : isFull s = true ↔ advance s.config s.head = s.tail :=
  decide_eq_true_iff

theorem isFull_eq_false_iff (s : State) : isFull s = false ↔ advance s.config s.head ≠ s.tail :=
  decide_eq_false_iff_not

theorem isEmpty_eq_true_iff (s : State) : isEmpty s = true ↔ s.head = s.tail := decide_eq_true_iff

theorem isEmpty_eq_false_iff (s : State) : isEmpty s = false ↔ s.head ≠ s.tail :=
  decide_eq_false_iff_not

theorem ovfEnabled_iff (s : State) : ovfEnabled s = true ↔
    s.inited = true ∧ s.gie = true ∧ s.ovfIE = true ∧ s.ovfPend = true := by
  simp [ovfEnabled, and_assoc]

theorem capEnabled_iff (s : State) : capEnabled s = true ↔
    s.inited = true ∧ s.gie = true ∧ s.capIE = true ∧ s.capPend = true := by
  simp [capEnabled, and_assoc]

@[simp] theorem occupancy_respond (r : Response) (s : State) : occupancy (respond r s) = occupancy s := rfl
@[simp] theorem slotAt_respond (r : Response) (j : Nat) (s : State) : slotAt j (respond r s) = slotAt j s := rfl
@[simp] theorem slotValue_respond (r : Response) (i : Index) (s : State) : slotValue i (respond r s) = slotValue i s := rfl
@[simp] theorem queue_respond (r : Response) (s : State) : queue (respond r s) = queue s := rfl
@[simp] theorem isFull_respond (r : Response) (s : State) : isFull (respond r s) = isFull s := rfl
@[simp] theorem isEmpty_respond (r : Response) (s : State) : isEmpty (respond r s) = isEmpty s := rfl
@[simp] theorem captureEvent_respond (r : Response) (s : State) : captureEvent (respond r s) = captureEvent s := rfl
@[simp] theorem ovfEnabled_respond (r : Response) (s : State) : ovfEnabled (respond r s) = ovfEnabled s := rfl
@[simp] theorem capEnabled_respond (r : Response) (s : State) : capEnabled (respond r s) = capEnabled s := rfl

end Sys2Proof.Machine
end

