-- ==== Sys2Proof/Laws/Exec.lean ====
section
/-! SUPPORT. One lemma per shared operation and per meaning: everything it can do when it answers a next state. Proofs cite these and do not unfold the meanings. -/

namespace Sys2Proof.Machine

/-- The state CAP leaves when the queue is full (R143, R145). -/
def capDropState (s : State) : State :=
  respond .nothing
    { s with dropped := s.dropped + 1#16, capPend := false, edgeSel := oppositeEdge s.edgeSel }

/-- The state CAP leaves when the event is enqueued (R143, R145). -/
def capEnqueueState (s : State) : State :=
  respond .nothing
    { s with
      buf := Memory.write s.buf s.head.toNat (captureEvent s)
      head := advance s.config s.head
      capPend := false
      edgeSel := oppositeEdge s.edgeSel }

/-- The state POP leaves when it takes the event at `TAIL` (R171). -/
def popTakeState (s : State) : State :=
  respond (.popped (popWord (some (slotValue s.tail s))))
    { s with tail := advance s.config s.tail }

theorem enqueue_full {s : State} (ev : CaptureEvent) (h : isFull s = true) :
    enqueue ev s = .ok { s with dropped := s.dropped + 1#16 } := by
  have h' : advance s.config s.head = s.tail := by simpa [isFull] using h
  simp [enqueue, h']

theorem enqueue_room {s : State} (ev : CaptureEvent) (h : isFull s = false)
    (hh : slotExists s.config s.head = true) :
    enqueue ev s =
      .ok { s with buf := Memory.write s.buf s.head.toNat ev, head := advance s.config s.head } := by
  have h' : ¬ advance s.config s.head = s.tail := by simpa [isFull] using h
  simp [enqueue, h', slotWrite, hh]

theorem enqueue_outside {s : State} (ev : CaptureEvent) (h : isFull s = false)
    (hh : slotExists s.config s.head = false) : enqueue ev s = .error .noSuchSlot := by
  have h' : ¬ advance s.config s.head = s.tail := by simpa [isFull] using h
  simp [enqueue, h', slotWrite, hh]

theorem exec_tick_eq (s : State) : exec .tick s = .next (respond .nothing (countTick s)) := rfl

theorem exec_pin_eq (v : Bool) (s : State) :
    exec (.pin v) s = .next (respond .nothing (detectEdge v s)) := rfl

theorem exec_ovf_eq (s : State) : exec .ovf s =
    if ovfEnabled s then .next (respond .nothing { s with ovfPend := false, ovh := s.ovh + 1#16 })
    else .refused .notEnabled := rfl

theorem exec_cap_eq (s : State) : exec .cap s =
    if capEnabled s then
      if isFull s then .next (capDropState s)
      else if slotExists s.config s.head then .next (capEnqueueState s)
      else .fault .noSuchSlot
    else .refused .notEnabled := by
  show takeInterrupt _ _ _ = _
  unfold takeInterrupt onCapture
  cases hf : isFull s with
  | true => simp only [enqueue_full _ hf]; rfl
  | false =>
    cases hh : slotExists s.config s.head with
    | true => simp only [enqueue_room _ hf hh]; rfl
    | false => simp only [enqueue_outside _ hf hh]; rfl

theorem exec_avail_eq (s : State) : exec .avail s =
    if s.inited then .next (respond (.avail (availWord (!isEmpty s))) s)
    else .refused .notInitialised := rfl

theorem exec_pop_eq (s : State) : exec .pop s =
    if s.inited then
      if isEmpty s then .next (respond (.popped (popWord none)) s)
      else if slotExists s.config s.tail then .next (popTakeState s)
      else .fault .noSuchSlot
    else .refused .notInitialised := by
  show whenInitialised _ _ = _
  unfold whenInitialised dequeue slotRead
  by_cases he : s.head = s.tail
  · simp [isEmpty, he]
  · cases hh : slotExists s.config s.tail <;> simp [isEmpty, he, popTakeState]

theorem exec_dropped_eq (s : State) : exec .dropped s =
    if s.inited then .next (respond (.count s.dropped) s) else .refused .notInitialised := rfl

theorem exec_init_eq (s : State) : exec .init s =
    if s.inited then .refused .initTwice
    else if s.gie then .refused .initWithInterruptsEnabled
    else .next (respond .nothing (onInitialize s)) := rfl

theorem exec_gie_eq (v : Bool) (s : State) : exec (.gie v) s =
    if v && !s.inited then .refused .notInitialised
    else .next (respond .nothing { s with gie := v }) := rfl

/-- Everything TICK can do to a state (R120). -/
theorem countTick_cases (s : State) :
    (s.run = true ∧ s.cnt = 0xFFFF#16 ∧ countTick s = { s with cnt := 0x0000#16, ovfPend := true }) ∨
    (s.run = true ∧ s.cnt ≠ 0xFFFF#16 ∧ countTick s = { s with cnt := s.cnt + 1#16 }) ∨
    (s.run = false ∧ countTick s = s) := by
  unfold countTick
  by_cases hr : s.run = true
  · by_cases hc : s.cnt = 0xFFFF#16
    · exact .inl ⟨hr, hc, by simp [hr, hc]⟩
    · exact .inr (.inl ⟨hr, hc, by simp [hr, hc]⟩)
  · have hr' : s.run = false := by simpa using hr
    exact .inr (.inr ⟨hr', by cases s; simp_all⟩)

/-- Everything `PIN v` can do to a state (R121). -/
theorem detectEdge_cases (v : Bool) (s : State) :
    (v = s.pin ∧ detectEdge v s = s) ∨
    (v ≠ s.pin ∧ edgeOfBit v = s.edgeSel ∧
      detectEdge v s =
        { s with pin := v, icr := if latchOpen s then s.cnt else s.icr, capPend := true }) ∨
    (v ≠ s.pin ∧ edgeOfBit v ≠ s.edgeSel ∧ detectEdge v s = { s with pin := v }) := by
  unfold detectEdge qualifies
  by_cases hv : v = s.pin
  · exact .inl ⟨hv, by simp [hv]⟩
  · by_cases he : edgeOfBit v = s.edgeSel
    · exact .inr (.inl ⟨hv, he, by simp [hv, he]⟩)
    · exact .inr (.inr ⟨hv, he, by simp [he]⟩)

/-- Everything an operation that is Done can have done, one case per effect. -/
theorem exec_next_cases {i : Instr} {s t : State} (h : exec i s = .next t) :
    (i = .tick ∧ t = respond .nothing (countTick s)) ∨
    (∃ v, i = .pin v ∧ t = respond .nothing (detectEdge v s)) ∨
    (i = .ovf ∧ ovfEnabled s = true ∧
      t = respond .nothing { s with ovfPend := false, ovh := s.ovh + 1#16 }) ∨
    (i = .cap ∧ capEnabled s = true ∧ isFull s = true ∧ t = capDropState s) ∨
    (i = .cap ∧ capEnabled s = true ∧ isFull s = false ∧ slotExists s.config s.head = true ∧
      t = capEnqueueState s) ∨
    (i = .avail ∧ s.inited = true ∧ t = respond (.avail (availWord (!isEmpty s))) s) ∨
    (i = .pop ∧ s.inited = true ∧ isEmpty s = true ∧ t = respond (.popped (popWord none)) s) ∨
    (i = .pop ∧ s.inited = true ∧ isEmpty s = false ∧ slotExists s.config s.tail = true ∧
      t = popTakeState s) ∨
    (i = .dropped ∧ s.inited = true ∧ t = respond (.count s.dropped) s) ∨
    (i = .init ∧ s.inited = false ∧ s.gie = false ∧ t = respond .nothing (onInitialize s)) ∨
    (∃ v, i = .gie v ∧ (v = true → s.inited = true) ∧ t = respond .nothing { s with gie := v }) := by
  cases i with
  | tick => rw [exec_tick_eq] at h; simp_all
  | pin v => rw [exec_pin_eq] at h; simp_all
  | ovf => rw [exec_ovf_eq] at h; split at h <;> simp_all
  | cap =>
    rw [exec_cap_eq] at h
    split at h
    · split at h
      · simp_all
      · split at h <;> simp_all
    · simp_all
  | avail => rw [exec_avail_eq] at h; split at h <;> simp_all
  | pop =>
    rw [exec_pop_eq] at h
    split at h
    · split at h
      · simp_all
      · split at h <;> simp_all
    · simp_all
  | dropped => rw [exec_dropped_eq] at h; split at h <;> simp_all
  | init =>
    rw [exec_init_eq] at h
    split at h
    · simp_all
    · split at h <;> simp_all
  | gie v => rw [exec_gie_eq] at h; split at h <;> simp_all

end Sys2Proof.Machine
end

