-- ==== Sys2Proof/Laws/Queue.lean ====
section
/-! SUPPORT. The queue as a list of events: what an enqueue and a dequeue do to it (spec/10_state.md R43, R47), and the lemmas of a run. -/

namespace Sys2Proof.Machine

/-- The slot after the queue is `HEAD`'s. -/
theorem slotAt_occupancy (s : State) (hh : s.head.toNat < capacity s.config) :
    slotAt (occupancy s) s = s.head := by
  apply BitVec.eq_of_toNat_eq
  rw [slotAt_toNat, ← head_eq_slot s hh]

/-- The oldest event is in `TAIL`'s slot. -/
theorem slotAt_zero (s : State) (ht : s.tail.toNat < capacity s.config) : slotAt 0 s = s.tail := by
  apply BitVec.eq_of_toNat_eq
  rw [slotAt_toNat, Nat.add_zero, Nat.mod_eq_of_lt ht]

/-- An advance of `HEAD` in a queue that is not full makes it one longer. -/
theorem occupancy_enqueue {s t : State} (hc : t.config = s.config)
    (hhead : t.head = advance s.config s.head) (htail : t.tail = s.tail)
    (hh : s.head.toNat < capacity s.config) (ht : s.tail.toNat < capacity s.config)
    (hf : isFull s = false) : occupancy t = occupancy s + 1 := by
  have hlt := occupancy_lt s
  have hnf : occupancy s + 1 ≠ capacity s.config := fun h => by
    simp [(isFull_iff s hh ht).2 h] at hf
  have h1 := s.tail.isLt
  rw [occupancy_eq t, hc, hhead, htail, advance_toNat, head_eq_slot s hh, Nat.mod_add_mod,
    Nat.add_assoc, Nat.mod_add_mod,
    show s.tail.toNat + occupancy s + (1 + (256 - s.tail.toNat)) = occupancy s + 1 + 256 by omega,
    Nat.add_mod, Nat.mod_eq_zero_of_dvd (capacity_dvd s.config), Nat.add_zero, Nat.mod_mod,
    Nat.mod_eq_of_lt (by omega)]

/-- An advance of `TAIL` in a queue that is not empty makes it one shorter. -/
theorem occupancy_dequeue {s t : State} (hc : t.config = s.config) (hhead : t.head = s.head)
    (htail : t.tail = advance s.config s.tail)
    (hh : s.head.toNat < capacity s.config) (ht : s.tail.toNat < capacity s.config)
    (he : isEmpty s = false) : occupancy s = occupancy t + 1 := by
  have hlt := occupancy_lt s
  have hne : occupancy s ≠ 0 := fun h => by
    simp [(isEmpty_eq_true_iff s).2 ((occupancy_eq_zero s hh ht).1 h)] at he
  have hle := capacity_le s.config
  obtain ⟨q, hq⟩ := capacity_dvd s.config
  have key : occupancy t = occupancy s - 1 := by
    rw [occupancy_eq t, hc, hhead, htail, advance_toNat, head_eq_slot s hh,
      mod_add_one _ _ (capacity_pos _), Nat.mod_eq_of_lt ht, Nat.mod_add_mod]
    split
    · rw [show s.tail.toNat + occupancy s + (256 - 0)
          = (occupancy s - 1) + capacity s.config * (q + 1) by rw [Nat.mul_add, ← hq]; omega,
        Nat.add_mul_mod_self_left, Nat.mod_eq_of_lt (by omega)]
    · rw [show s.tail.toNat + occupancy s + (256 - (s.tail.toNat + 1))
          = (occupancy s - 1) + capacity s.config * q by rw [← hq]; omega,
        Nat.add_mul_mod_self_left, Nat.mod_eq_of_lt (by omega)]
  omega

/-- After a dequeue, place `j` of the queue is what was place `j + 1`. -/
theorem slotAt_dequeue {s t : State} (hc : t.config = s.config)
    (htail : t.tail = advance s.config s.tail) (j : Nat) : slotAt j t = slotAt (j + 1) s := by
  apply BitVec.eq_of_toNat_eq
  rw [slotAt_toNat, slotAt_toNat, hc, htail, advance_toNat, Nat.mod_add_mod]
  congr 1
  omega

/-- An enqueue in a queue that is not full adds the event at the end (R143). -/
theorem queue_enqueue {s t : State} (ev : CaptureEvent)
    (hh : s.head.toNat < capacity s.config) (ht : s.tail.toNat < capacity s.config)
    (hf : isFull s = false) (hc : t.config = s.config) (hhead : t.head = advance s.config s.head)
    (htail : t.tail = s.tail) (hbuf : t.buf = Memory.write s.buf s.head.toNat ev) :
    queue t = queue s ++ [ev] := by
  have hs : ∀ j, slotAt j t = slotAt j s := fun j => by simp [slotAt, hc, htail]
  have hlt := occupancy_lt s
  rw [queue, occupancy_enqueue hc hhead htail hh ht hf, List.range_succ, List.map_append, queue]
  congr 1
  · apply List.map_congr_left
    intro j hj
    have hj := List.mem_range.1 hj
    have hne : (slotAt j s).toNat ≠ s.head.toNat := by
      intro h
      rw [← slotAt_occupancy s hh] at h
      have := slotAt_inj s (by omega) (by omega) h
      omega
    rw [hs, slotValue, slotValue, hbuf, read_write_ne _ _ hne]
  · rw [List.map_singleton, hs, slotAt_occupancy s hh, slotValue, hbuf, read_write_same]

/-- A dequeue from a queue that is not empty takes the first event (R171). -/
theorem queue_dequeue {s t : State}
    (hh : s.head.toNat < capacity s.config) (ht : s.tail.toNat < capacity s.config)
    (he : isEmpty s = false) (hc : t.config = s.config) (hhead : t.head = s.head)
    (htail : t.tail = advance s.config s.tail) (hbuf : t.buf = s.buf) :
    queue s = slotValue s.tail s :: queue t := by
  rw [queue, occupancy_dequeue hc hhead htail hh ht he, List.range_succ_eq_map, List.map_cons,
    slotAt_zero s ht, queue, List.map_map]
  congr 1
  apply List.map_congr_left
  intro j _
  simp only [Function.comp, Nat.succ_eq_add_one]
  rw [slotAt_dequeue hc htail, slotValue, slotValue, hbuf]

/-- In a state of the invariant, from INIT on, both indices are below the capacity. -/
theorem Inv.indices {s : State} (h : Inv s) (hi : s.inited = true) :
    s.head.toNat < capacity s.config ∧ s.tail.toNat < capacity s.config :=
  ⟨(le_mask_iff _ _).1 (h.headInMask hi), (le_mask_iff _ _).1 (h.tailInMask hi)⟩

theorem stateAfter_next {i : Instr} {s t : State} (h : exec i s = .next t) : stateAfter i s = t := by
  simp [stateAfter, h]

theorem runOps_append (a b : List Instr) (s : State) : runOps (a ++ b) s =
    match runOps a s with
    | .next t => runOps b t
    | .fault f => .fault f
    | .refused r => .refused r := by
  induction a generalizing s with
  | nil => rfl
  | cons i a ih =>
    simp only [List.cons_append, runOps]
    cases exec i s <;> simp [ih]

/-- A run that is Done, taken apart after its first operation. -/
theorem runOps_cons_next {i : Instr} {ops : List Instr} {s t : State}
    (h : runOps (i :: ops) s = .next t) : ∃ u, exec i s = .next u ∧ runOps ops u = .next t := by
  rw [runOps] at h
  cases he : exec i s <;> simp_all

/-- No operation takes INITED back. -/
theorem exec_keeps_inited {i : Instr} {s t : State} (h : exec i s = .next t)
    (hi : s.inited = true) : t.inited = true := by
  rcases exec_next_cases h with ⟨rfl, rfl⟩ | ⟨v, rfl, rfl⟩ | ⟨rfl, _, rfl⟩ | ⟨rfl, _, _, rfl⟩ |
    ⟨rfl, _, _, _, rfl⟩ | ⟨rfl, _, rfl⟩ | ⟨rfl, _, _, rfl⟩ | ⟨rfl, _, _, _, rfl⟩ | ⟨rfl, _, rfl⟩ |
    ⟨rfl, _, _, rfl⟩ | ⟨v, rfl, _, rfl⟩ <;> first | exact hi | rfl

end Sys2Proof.Machine
end

