-- ==== Sys2Proof/Laws/PerInstr.lean ====
section
/-! SUPPORT. The family `TableRow`: every operation's word is a word of its row of spec/opcode_table.json and of no other row, and the group field names its kind of agent (spec/30_encoding.md R91, R93). -/

namespace Sys2Proof.Laws.TableRow

/-- The operation's word hits the rows of its own mnemonic and no others, and `grp` is 1 for a
hardware-agent step, 2 for an interrupt service, 3 for a consumer command, 4 for a bring-up command. -/
def Statement (i : Instr) : Prop :=
  (∀ r ∈ opcodeTable, r.hits (encode i) = true ↔ r.mnemonic = mnemonicOf i) ∧
  (wordGrp (encode i)).toNat =
    match agentOf i with
    | .counter | .environment => 1
    | .producer => 2
    | .consumer => 3
    | .bringUp => 4

theorem tick : Statement .tick := by unfold Statement; decide
theorem pin (v : Bool) : Statement (.pin v) := by unfold Statement; cases v <;> decide
theorem ovf : Statement .ovf := by unfold Statement; decide
theorem cap : Statement .cap := by unfold Statement; decide
theorem avail : Statement .avail := by unfold Statement; decide
theorem pop : Statement .pop := by unfold Statement; decide
theorem dropped : Statement .dropped := by unfold Statement; decide
theorem init : Statement .init := by unfold Statement; decide
theorem gie (v : Bool) : Statement (.gie v) := by unfold Statement; cases v <;> decide

end Sys2Proof.Laws.TableRow
end

