-- ==== Sys2Proof/Certificates/Slice0/Obligations.lean ====
section
/-! DEFINITION. The statements for the provers, in the order of OBLIGATIONS.json: encodings, the step, reset and building, one group per family of operations, then the rules about the whole machine. -/

open Sys2Proof Sys2Proof.Machine

/-! ### Encodings -/

/-- R99: decoding is total on the 256 words: each of the eleven legal words, written out bit by bit as
`grp ‖ fn ‖ v`, decodes to its operation, and every other word is reserved. -/
def Obligations.DecodingOfThe256Words : Prop :=
  (decode 0b00010000#8 = .ok .tick ∧
    decode 0b00010010#8 = .ok (.pin false) ∧ decode 0b00010011#8 = .ok (.pin true) ∧
    decode 0b00100000#8 = .ok .ovf ∧ decode 0b00100010#8 = .ok .cap ∧
    decode 0b00110000#8 = .ok .avail ∧ decode 0b00110010#8 = .ok .pop ∧
    decode 0b00110100#8 = .ok .dropped ∧ decode 0b01000000#8 = .ok .init ∧
    decode 0b01000010#8 = .ok (.gie false) ∧ decode 0b01000011#8 = .ok (.gie true)) ∧
  ∀ w : Byte,
    w ∉ [0x10#8, 0x12#8, 0x13#8, 0x20#8, 0x22#8, 0x30#8, 0x32#8, 0x34#8, 0x40#8, 0x42#8, 0x43#8] →
      decode w = .error .reservedOp

/-- Decode and encode agree both ways: the word of every operation decodes to it, and a word that decodes to
an operation is that operation's word. -/
def Obligations.DecodeEncodeAgree : Prop :=
  ∀ (w : Byte) (i : Instr), decode w = .ok i ↔ encode i = w

/-- R95: the reserved words are those of R95's clauses (`wordLegal`, written from them field by field), and a
reserved word is refused with reason `ReservedOp`, whatever the state. -/
def Obligations.ReservedWordsAreRefused : Prop :=
  (∀ w : Byte, decode w = .error .reservedOp ↔ wordLegal w = false) ∧
  ∀ (s : State) (w : Byte) (rest : List Byte),
    s.schedule = w :: rest → wordLegal w = false → step s = .refused .reservedOp

/-- R93: the decoder is the opcode table: a word decodes to an operation exactly when the row of that
operation's mnemonic is hit, and no word hits two rows. -/
def Obligations.DecoderIsTheOpcodeTable : Prop :=
  (∀ (w : Byte) (r : OpcodeRow), r ∈ opcodeTable →
    (r.hits w = true ↔ ∃ i, decode w = .ok i ∧ mnemonicOf i = r.mnemonic)) ∧
  (∀ (w : Byte), (opcodeTable.filter fun r => r.hits w).length ≤ 1)

/-- R97: the 33-bit value of an event has `edge` (1 = Rising) in bit 32 and `ticks` below it, loses nothing
either way, and its canonical image is the four bytes of `ticks`, least significant first, then `edge`. -/
def Obligations.EventEncodingLosesNothing : Prop :=
  (∀ ev : CaptureEvent,
    (eventWord ev).getLsbD 32 = decide (ev.edge = .rising) ∧
    (eventWord ev).extractLsb' 0 32 = ev.ticks ∧
    eventOfWord (eventWord ev) = ev ∧
    (eventImage ev).map BitVec.toNat =
      [ev.ticks.toNat % 256, ev.ticks.toNat / 256 % 256, ev.ticks.toNat / 65536 % 256,
       ev.ticks.toNat / 16777216, (decide (ev.edge = .rising)).toNat]) ∧
  (∀ w : BitVec 33, eventWord (eventOfWord w) = w)

/-- R96: the POP response is `valid ‖ edge ‖ ticks`, all zero for none; `none` differs from every event, and
the response loses nothing of the event. -/
def Obligations.PopResponseLosesNothing : Prop :=
  popWord none = 0#34 ∧
  (∀ ev : CaptureEvent, (popWord (some ev)).getLsbD 33 = true ∧
    (popWord (some ev)).getLsbD 32 = decide (ev.edge = .rising) ∧
    (popWord (some ev)).extractLsb' 0 32 = ev.ticks) ∧
  (∀ o : Option CaptureEvent, popEvent (popWord o) = o)

/-- R38: `CTRL` is `RUN`, `EDGE_SEL`, `NC_EN`, `OVF_IE`, `CAP_IE` in bits 0 to 4 and `FLAGS` is `OVF_PEND`,
`CAP_PEND` in bits 0 and 1; the other bits read as 0. -/
def Obligations.ControlAndFlagBitsOfADump : Prop :=
  ∀ s : State,
    (∀ n, (ctrlByte s).getLsbD n =
      match n with
      | 0 => s.run
      | 1 => decide (s.edgeSel = .rising)
      | 2 => s.ncEn
      | 3 => s.ovfIE
      | 4 => s.capIE
      | _ => false) ∧
    (∀ n, (flagsByte s).getLsbD n =
      match n with
      | 0 => s.ovfPend
      | 1 => s.capPend
      | _ => false)

/-! ### The step -/

/-- Where the oldest queued word decodes to an operation, the step takes that word from the schedule and is
that operation's exec, and adds nothing (assumption 1: the schedule). -/
def Obligations.StepRunsTheQueuedOperation : Prop :=
  ∀ (s : State) (w : Byte) (rest : List Byte) (i : Instr),
    s.schedule = w :: rest → decode w = .ok i →
      step s = exec i { s with schedule := rest }

/-- Where no word is queued, the step is the exec of the agents' free choice, whatever it is, and counts that
choice (assumption 1: the model's choice). -/
def Obligations.StepTakesAFreeOperation : Prop :=
  ∀ s : State, s.schedule = [] →
    step s = exec (Config.freeOperation s.turn) { s with turn := s.turn + 1 }

/-- An operation queued as an opcode-table word is the very next one that runs. The whole of it is the model's
choice: assumption 1 (the schedule and `withFetchWord`) and assumption 16 (the word is the number's low bits). -/
def Obligations.QueuedTableWordRunsNext : Prop :=
  ∀ (s : State) (nbits w : Nat) (i : Instr),
    decodeTableWord nbits w = some i → step (s.withFetchWord nbits w) = exec i s

/-! ### Reset and building the machine -/

/-- R240, R45: at reset `GIE`, `OVF_IE`, `CAP_IE` and `INITED` are 0 and every other register holds the value
drawn for it, whatever that is; no slot has been written, and each holds the unspecified value drawn for it. -/
def Obligations.ResetLeavesEnablesZero : Prop :=
  ∀ (c : Config) (d : ResetDraw),
    let s := State.atReset c d
    (s.gie = false ∧ s.ovfIE = false ∧ s.capIE = false ∧ s.inited = false) ∧
    (s.cnt = d.cnt ∧ s.icr = d.icr ∧ s.ovh = d.ovh ∧ s.head = d.head ∧ s.tail = d.tail ∧
      s.dropped = d.dropped ∧ s.run = d.run ∧ s.edgeSel = d.edgeSel ∧ s.ncEn = d.ncEn ∧
      s.ovfPend = d.ovfPend ∧ s.capPend = d.capPend ∧ s.pin = d.pin) ∧
    (∀ a, Memory.read s.buf a = none) ∧
    (∀ i, slotValue i s = Config.unwrittenSlot i.toNat)

/-- R6, R203: a machine is built exactly for the nine capacities, and then it has that capacity, stands at
reset and holds the other parameters; any other `CAPACITY` is refused with `BadConfiguration`. -/
def Obligations.OnlyGoodCapacitiesAreBuilt : Prop :=
  ∀ (p : Parameters) (d : ResetDraw),
    (p.wellFormed = true → ∃ c : Config, build p d = .next (State.atReset c d) ∧
      capacity c = p.capacity ∧ (mask c).toNat = p.capacity - 1 ∧ c.noiseFilter = p.noiseFilter ∧ c.initEdge = p.initEdge ∧
      c.recapture = p.recapture) ∧
    (p.wellFormed = false → build p d = .refused .badConfiguration)

/-- The invariant holds at reset, for every configuration and every values drawn. -/
def Obligations.ResetMeetsTheInvariant : Prop :=
  ∀ (c : Config) (d : ResetDraw), Inv (State.atReset c d)

/-! ### The counter and the edge detector -/

/-- R120: TICK is always admitted; while `RUN` is 1 it counts, and at 0xFFFF it wraps and sets `OVF_PEND`;
while `RUN` is 0 nothing changes. Nothing else is written. -/
def Obligations.TickCountsAndFlagsTheWrap : Prop :=
  decode 0x10#8 = .ok .tick ∧
  ∀ s : State,
    (s.run = true → s.cnt = 0xFFFF#16 →
      exec .tick s = .next { s with cnt := 0x0000#16, ovfPend := true, response := .nothing }) ∧
    (s.run = true → s.cnt ≠ 0xFFFF#16 →
      exec .tick s = .next { s with cnt := s.cnt + 1#16, response := .nothing }) ∧
    (s.run = false → exec .tick s = .next { s with response := .nothing })

/-- `TICKS n` of R101 from any state with `RUN = 1`: the counter advances by `n` modulo `2^16`, the flag is
set exactly if it was or the counter wrapped, and nothing else of the machine changes. -/
def Obligations.TicksAdvanceTheCounter : Prop :=
  ∀ (n : Nat) (s : State), s.run = true →
    ∃ r, runOps (ticksOps n) s =
      .next { s with
        cnt := s.cnt + BitVec.ofNat 16 n
        ovfPend := s.ovfPend || decide (65536 ≤ s.cnt.toNat + n)
        response := r }

/-- R121: `PIN v` is always admitted. No transition: nothing changes. A transition of the armed direction
sets `CAP_PEND` and latches `CNT`, but for a pending capture under `Hold`; a transition of the other
direction changes `PIN` only. -/
def Obligations.PinLatchesTheArmedEdge : Prop :=
  decode 0x12#8 = .ok (.pin false) ∧ decode 0x13#8 = .ok (.pin true) ∧
  ∀ (v : Bool) (s : State),
    (v = s.pin → exec (.pin v) s = .next { s with response := .nothing }) ∧
    (v ≠ s.pin → s.edgeSel = (if v then Edge.rising else Edge.falling) →
      (s.capPend = false ∨ s.config.recapture = .overwrite) →
      exec (.pin v) s =
        .next { s with pin := v, icr := s.cnt, capPend := true, response := .nothing }) ∧
    (v ≠ s.pin → s.edgeSel = (if v then Edge.rising else Edge.falling) →
      s.capPend = true → s.config.recapture = .hold →
      exec (.pin v) s = .next { s with pin := v, response := .nothing }) ∧
    (v ≠ s.pin → s.edgeSel ≠ (if v then Edge.rising else Edge.falling) →
      exec (.pin v) s = .next { s with pin := v, response := .nothing })

/-- R244: an armed edge, the opposite edge and the armed edge again, any ticks between, before CAP has served
the first: one capture is pending, `ICR` holds the last edge's counter value under `Overwrite` and the
first's under `Hold`, and `DROPPED` has not moved. -/
def Obligations.EdgesBeforeServiceAreLostUncounted : Prop :=
  ∀ (s : State) (v : Bool) (m n : Nat),
    s.run = true → s.capPend = false → s.pin = !v → s.edgeSel = edgeOfBit v →
    ∃ t, runOps ([.pin v] ++ ticksOps m ++ [.pin (!v)] ++ ticksOps n ++ [.pin v]) s = .next t ∧
      t.capPend = true ∧ t.pin = v ∧ t.edgeSel = s.edgeSel ∧ t.dropped = s.dropped ∧
      t.icr = (if s.config.recapture = .overwrite then s.cnt + BitVec.ofNat 16 (m + n) else s.cnt)

/-! ### The Capture Source -/

/-- R141: the boundary guard, all four cases. -/
def Obligations.BoundaryGuardCases : Prop :=
  ∀ (l h : Count),
    adjust false l h = h ∧
    (l.toNat < 0x8000 → (adjust true l h).toNat = (h.toNat + 1) % 65536) ∧
    (0x8000 ≤ l.toNat → adjust true l h = h)

/-- R142: the absolute tick is `a * 65536 + l`: its upper half is `a`, its lower half `l`. -/
def Obligations.AbsoluteTickHalves : Prop :=
  ∀ (a l : Count),
    (abstick a l).toNat = a.toNat * 65536 + l.toNat ∧
    (abstick a l).extractLsb' 16 16 = a ∧ (abstick a l).extractLsb' 0 16 = l

/-- R144, R208: OVF counts one wrap modulo `2^16` and consumes the flag, exactly when its dispatch condition
holds; otherwise the step does not exist (the refusal `notEnabled`, the model's choice: assumption 6). Nothing else
is written. -/
def Obligations.OvfCountsOneWrap : Prop :=
  decode 0x20#8 = .ok .ovf ∧
  ∀ s : State,
    (s.inited = true ∧ s.gie = true ∧ s.ovfIE = true ∧ s.ovfPend = true →
      exec .ovf s =
        .next { s with ovfPend := false, ovh := s.ovh + 1#16, response := .nothing }) ∧
    (¬ (s.inited = true ∧ s.gie = true ∧ s.ovfIE = true ∧ s.ovfPend = true) →
      exec .ovf s = .refused .notEnabled)

/-- R145, R143: CAP, when its dispatch condition holds. With room, the event (the polarity armed before, the
guarded count above the latch) goes to slot `HEAD` and `HEAD` advances; with a full queue `DROPPED` counts the
loss modulo `2^16` and no slot is written. Either way `CAP_PEND` is cleared and `EDGE_SEL` complemented, and
nothing else is written: in particular not `OVH` and not `OVF_PEND`. Otherwise the step does not exist (the
refusal `notEnabled`, the model's choice: assumption 6). -/
def Obligations.CapEnqueuesOrCountsTheDrop : Prop :=
  decode 0x22#8 = .ok .cap ∧
  ∀ s : State,
    (s.inited = true ∧ s.gie = true ∧ s.capIE = true ∧ s.capPend = true →
      (s.head + 1#8) &&& mask s.config ≠ s.tail → s.head ≤ mask s.config →
      exec .cap s =
        .next { s with
          buf := Memory.write s.buf s.head.toNat
            { ticks := ((if s.ovfPend = true ∧ s.icr.toNat < 0x8000 then s.ovh + 1#16 else s.ovh) ++ s.icr)
              edge := s.edgeSel }
          head := (s.head + 1#8) &&& mask s.config
          capPend := false
          edgeSel := (if s.edgeSel = .rising then Edge.falling else Edge.rising)
          response := .nothing }) ∧
    (s.inited = true ∧ s.gie = true ∧ s.capIE = true ∧ s.capPend = true →
      (s.head + 1#8) &&& mask s.config = s.tail →
      exec .cap s =
        .next { s with
          dropped := s.dropped + 1#16
          capPend := false
          edgeSel := (if s.edgeSel = .rising then Edge.falling else Edge.rising)
          response := .nothing }) ∧
    (¬ (s.inited = true ∧ s.gie = true ∧ s.capIE = true ∧ s.capPend = true) →
      exec .cap s = .refused .notEnabled)

/-- R208: in every state of the invariant CAP is Done exactly when its dispatch condition holds, and is
otherwise a step that does not exist (the refusal `notEnabled`, the model's choice: assumption 6); the same for
OVF. -/
def Obligations.ServicesRunExactlyWhenEnabled : Prop :=
  ∀ s : State, Inv s →
    ((∃ t, exec .cap s = .next t) ↔
      s.inited = true ∧ s.gie = true ∧ s.capIE = true ∧ s.capPend = true) ∧
    ((∃ t, exec .ovf s = .next t) ↔
      s.inited = true ∧ s.gie = true ∧ s.ovfIE = true ∧ s.ovfPend = true) ∧
    ((∀ t, exec .cap s ≠ .next t) → exec .cap s = .refused .notEnabled) ∧
    ((∀ t, exec .ovf s ≠ .next t) → exec .ovf s = .refused .notEnabled)

/-- R146 (c): with both services enabled, either order is Done; below the midpoint both orders give the same
state, event and all; at or above it the event composed after OVF is 65536 ticks later. -/
def Obligations.ServiceOrderAndTheGuard : Prop :=
  ∀ s : State, Inv s → ovfEnabled s = true → capEnabled s = true →
    (∃ t, runOps [.ovf, .cap] s = .next t) ∧ (∃ t, runOps [.cap, .ovf] s = .next t) ∧
    (s.icr.toNat < 0x8000 → runOps [.ovf, .cap] s = runOps [.cap, .ovf] s) ∧
    (0x8000 ≤ s.icr.toNat → ∀ t, exec .ovf s = .next t →
      (captureEvent t).ticks = (captureEvent s).ticks + 0x00010000#32)

/-- R145 (f), R146 (a): the polarities the CAPs of a run report alternate, drops among them, starting from
the polarity armed at its start. -/
def Obligations.CapturedEdgesAlternate : Prop :=
  ∀ (ops : List Instr) (s t : State), s.inited = true → runOps ops s = .next t →
    ∀ n, n < (capturedEdges ops s).length →
      (capturedEdges ops s)[n]? =
        some (if n % 2 = 0 then s.edgeSel else oppositeEdge s.edgeSel)

/-- R243: over any run, `OVH` and the pending flag together have counted the wraps that were not absorbed
into a flag already set: each lost wrap leaves the count one too small for ever. -/
def Obligations.LostWrapsAreNeverCounted : Prop :=
  ∀ (ops : List Instr) (s t : State), s.inited = true → runOps ops s = .next t →
    t.ovh + BitVec.ofNat 16 t.ovfPend.toNat + BitVec.ofNat 16 (lostWrapsIn ops s) =
      s.ovh + BitVec.ofNat 16 s.ovfPend.toNat + BitVec.ofNat 16 (wrapsIn ops s)

/-- R242: under its three conditions (`TimelyCapture`), the tick CAP computes for an edge latched after `T`
TICKs since INIT is `T mod 2^32`. -/
def Obligations.CapturedTickIsTheLatchTime : Prop :=
  ∀ (before during : List Instr) (v : Bool) (r s₀ s₁ s₂ s₃ : State),
    exec .init r = .next s₀ →
    TimelyCapture before v during s₀ s₁ s₂ s₃ →
    (captureEvent s₃).ticks = BitVec.ofNat 32 (before.count .tick)

/-- R250: of two edges of one run, both under R242's conditions and between two wraps of the tick, the one
latched later gets a tick that is not smaller, and an equal one only if no TICK came between the latches. -/
def Obligations.TimelyTicksAreMonotone : Prop :=
  ∀ (before during between during' : List Instr) (v v' : Bool) (r s₀ s₁ s₂ s₃ u₁ u₂ u₃ : State),
    exec .init r = .next s₀ →
    TimelyCapture before v during s₀ s₁ s₂ s₃ →
    TimelyCapture (before ++ [.pin v] ++ during ++ between) v' during' s₀ u₁ u₂ u₃ →
    before.count .tick / 2 ^ 32 = List.count Instr.tick (before ++ [.pin v] ++ during ++ between) / 2 ^ 32 →
    (captureEvent s₃).ticks ≤ (captureEvent u₃).ticks ∧
    ((captureEvent s₃).ticks = (captureEvent u₃).ticks → List.count Instr.tick (during ++ between) = 0)

/-! ### The consumer commands -/

/-- R170: AVAIL answers whether `HEAD` and `TAIL` differ and changes nothing; before INIT it is refused. -/
def Obligations.AvailIsAPureHint : Prop :=
  decode 0x30#8 = .ok .avail ∧
  ∀ s : State,
    (s.inited = true → s.head ≠ s.tail →
      exec .avail s = .next { s with response := .avail 1#1 }) ∧
    (s.inited = true → s.head = s.tail →
      exec .avail s = .next { s with response := .avail 0#1 }) ∧
    (s.inited = false → exec .avail s = .refused .notInitialised)

/-- R171: POP of an empty queue answers none and changes nothing; otherwise it answers the event in slot
`TAIL` and advances `TAIL`, and nothing else; before INIT it is refused. The slot keeps its contents. (A
slot no CAP has written holds the value drawn at reset: assumption 4.) -/
def Obligations.PopTakesTheOldest : Prop :=
  decode 0x32#8 = .ok .pop ∧
  ∀ s : State,
    (s.inited = true → s.head = s.tail →
      exec .pop s = .next { s with response := .popped 0#34 }) ∧
    (s.inited = true → s.head ≠ s.tail → s.tail ≤ mask s.config →
      ∀ ev, (Memory.read s.buf s.tail.toNat).getD (Config.unwrittenSlot s.tail.toNat) = ev →
        exec .pop s = .next { s with
          tail := (s.tail + 1#8) &&& mask s.config
          response := .popped (1#1 ++ (BitVec.ofBool (decide (ev.edge = .rising)) ++ ev.ticks)) }) ∧
    (s.inited = false → exec .pop s = .refused .notInitialised)

/-- R172: DROPPED answers the drop counter and changes nothing; before INIT it is refused. -/
def Obligations.DroppedReadsTheCounter : Prop :=
  decode 0x34#8 = .ok .dropped ∧
  ∀ s : State,
    (s.inited = true → exec .dropped s = .next { s with response := .count s.dropped }) ∧
    (s.inited = false → exec .dropped s = .refused .notInitialised)

/-- R72: a `true` of AVAIL stays true until the consumer's own next POP: no run without a POP empties a
queue that was not empty. -/
def Obligations.AvailableStaysUntilPop : Prop :=
  ∀ (ops : List Instr) (s t : State), Inv s → s.inited = true → s.head ≠ s.tail →
    .pop ∉ ops → runOps ops s = .next t → t.head ≠ t.tail

/-- R44, R78: the consumer commands see `HEAD`, `TAIL`, `DROPPED` and `BUF` only: in two states that agree on
those (and on the configuration and `INITED`, which no command changes) each gives the same outcome, the
same response and the same `TAIL`, whatever `OVH`, `CNT`, `ICR`, the flags and the control bits are. -/
def Obligations.ConsumerSeesOnlyTheQueue : Prop :=
  ∀ (i : Instr) (s s' : State), agentOf i = .consumer →
    s.config = s'.config → s.inited = s'.inited → s.head = s'.head → s.tail = s'.tail →
    s.dropped = s'.dropped → s.buf = s'.buf →
    match exec i s, exec i s' with
    | .next t, .next t' => t.response = t'.response ∧ t.tail = t'.tail
    | .fault f, .fault f' => f = f'
    | .refused r, .refused r' => r = r'
    | _, _ => False

/-! ### Initialization and the global enable -/

/-- R190: INIT, admitted when `INITED = 0` and `GIE = 0`, writes what R190 lists and nothing else: `BUF`,
`ICR`, `PIN` and `GIE` stand. A second INIT, and INIT with interrupts enabled, are refused, in that order. -/
def Obligations.InitWritesItsList : Prop :=
  decode 0x40#8 = .ok .init ∧
  ∀ s : State,
    (s.inited = false → s.gie = false →
      exec .init s = .next { s with
        cnt := 0x0000#16, ovh := 0x0000#16, head := 0x00#8, tail := 0x00#8, dropped := 0x0000#16,
        run := true, edgeSel := s.config.initEdge, ncEn := s.config.noiseFilter,
        ovfIE := true, capIE := true, ovfPend := false, capPend := false, inited := true,
        response := .nothing }) ∧
    (s.inited = true → exec .init s = .refused .initTwice) ∧
    (s.inited = false → s.gie = true → exec .init s = .refused .initWithInterruptsEnabled)

/-- R190 (c): the state after INIT does not depend on the state before it except in `BUF`, `ICR`, `PIN` and
`GIE` (and in what is not the chip's: the configuration and the schedule). -/
def Obligations.InitForgetsTheRest : Prop :=
  ∀ (s s' t t' : State), exec .init s = .next t → exec .init s' = .next t' →
    s.config = s'.config → s.buf = s'.buf → s.icr = s'.icr → s.pin = s'.pin →
    s.schedule = s'.schedule → s.turn = s'.turn → t = t'

/-- R191: `GIE v` writes `GIE` and nothing else; `GIE 0` is always admitted, `GIE 1` needs `INITED = 1`. -/
def Obligations.GieSetsTheEnable : Prop :=
  decode 0x42#8 = .ok (.gie false) ∧ decode 0x43#8 = .ok (.gie true) ∧
  ∀ s : State,
    exec (.gie false) s = .next { s with gie := false, response := .nothing } ∧
    (s.inited = true → exec (.gie true) s = .next { s with gie := true, response := .nothing }) ∧
    (s.inited = false → exec (.gie true) s = .refused .notInitialised)

/-! ### The whole machine -/

/-- The operations' own refusals of R203 are a closed list, each exactly in its case. The last two cases are no
refusal of the spec's: OVF and CAP "are never refused", their step does not exist (R16, R208), and that the
host's outcome is the refusal `notEnabled` there is the model's choice (assumption 6). -/
def Obligations.RefusalsAreAClosedList : Prop :=
  ∀ (i : Instr) (s : State) (r : Refusal), exec i s = .refused r ↔
    (r = .notInitialised ∧ s.inited = false ∧
      (i = .avail ∨ i = .pop ∨ i = .dropped ∨ i = .gie true)) ∨
    (r = .initTwice ∧ i = .init ∧ s.inited = true) ∨
    (r = .initWithInterruptsEnabled ∧ i = .init ∧ s.inited = false ∧ s.gie = true) ∨
    (r = .notEnabled ∧ i = .ovf ∧
      ¬ (s.inited = true ∧ s.gie = true ∧ s.ovfIE = true ∧ s.ovfPend = true)) ∨
    (r = .notEnabled ∧ i = .cap ∧
      ¬ (s.inited = true ∧ s.gie = true ∧ s.capIE = true ∧ s.capPend = true))

/-- R44, R20: who may write what: an operation that is Done changes a register only if R44 gives it a `w`
there; no operation changes the configuration. -/
def Obligations.OnlyTheOwnerWrites : Prop :=
  ∀ (i : Instr) (s t : State), exec i s = .next t →
    t.config = s.config ∧
    (t.cnt ≠ s.cnt → i = .tick ∨ i = .init) ∧
    (t.icr ≠ s.icr → ∃ v, i = .pin v) ∧
    (t.ovh ≠ s.ovh → i = .ovf ∨ i = .init) ∧
    (t.head ≠ s.head → i = .cap ∨ i = .init) ∧
    (t.tail ≠ s.tail → i = .pop ∨ i = .init) ∧
    (t.dropped ≠ s.dropped → i = .cap ∨ i = .init) ∧
    (t.run ≠ s.run → i = .init) ∧
    (t.edgeSel ≠ s.edgeSel → i = .cap ∨ i = .init) ∧
    (t.ncEn ≠ s.ncEn → i = .init) ∧
    (t.ovfIE ≠ s.ovfIE → i = .init) ∧
    (t.capIE ≠ s.capIE → i = .init) ∧
    (t.ovfPend ≠ s.ovfPend → i = .tick ∨ i = .ovf ∨ i = .init) ∧
    (t.capPend ≠ s.capPend → (∃ v, i = .pin v) ∨ i = .cap ∨ i = .init) ∧
    (t.gie ≠ s.gie → ∃ v, i = .gie v) ∧
    (t.pin ≠ s.pin → ∃ v, i = .pin v) ∧
    (t.inited ≠ s.inited → i = .init) ∧
    (t.buf ≠ s.buf → i = .cap)

/-- The frame of the slots (R62): CAP with room stores to slot `HEAD` of the state it starts from, every other
slot reads as before, and every other operation, and CAP with a full queue, leaves every slot as it was. -/
def Obligations.OnlyTheHeadSlotIsWritten : Prop :=
  ∀ (i : Instr) (s t : State), exec i s = .next t →
    (∀ a : Nat, i = .cap → isFull s = false → a ≠ s.head.toNat →
      Memory.read t.buf a = Memory.read s.buf a) ∧
    (i = .cap → isFull s = false →
      Memory.read t.buf s.head.toNat = some (captureEvent s)) ∧
    (i ≠ .cap ∨ isFull s = true → ∀ a : Nat, Memory.read t.buf a = Memory.read s.buf a)

/-- A read after a write gives what was written there and what was there before elsewhere; a write keeps the
canonical form (assumption 4: the form is the model's). -/
def Obligations.SlotReadAfterWrite : Prop :=
  ∀ (m : Memory) (a b : Nat) (ev : CaptureEvent),
    Memory.read (Memory.write m a ev) b = (if b = a then some ev else Memory.read m b) ∧
    (Memory.wf m → Memory.wf (Memory.write m a ev))

/-- An index outside 0..MASK names no slot (R60, R61): CAP with room and POP of a non-empty queue stop there
with `noSuchSlot` (assumption 5: the model's stop). -/
def Obligations.NoSlotOutsideTheMask : Prop :=
  ∀ s : State,
    (capEnabled s = true → isFull s = false → ¬ s.head ≤ mask s.config →
      exec .cap s = .fault .noSuchSlot) ∧
    (s.inited = true → s.head ≠ s.tail → ¬ s.tail ≤ mask s.config →
      exec .pop s = .fault .noSuchSlot)

/-- R200, R61: no step faults from a state of the invariant, whatever is scheduled. -/
def Obligations.NoStepFaults : Prop :=
  ∀ (s : State) (f : Fault), Inv s → step s ≠ .fault f

/-- Every step keeps the invariant. -/
def Obligations.StepKeepsTheInvariant : Prop :=
  ∀ s t : State, Inv s → step s = .next t → Inv t

/-- R47 (a), (b), (d), and of (c) that every queued slot has been written: in every reachable state after
INIT. -/
def Obligations.ReachableStatesMeetR47 : Prop :=
  ∀ s : State, Reachable s → s.inited = true →
    (s.head.toNat < capacity s.config ∧ s.tail.toNat < capacity s.config) ∧
    occupancy s ≤ capacity s.config - 1 ∧
    (∀ j, j < occupancy s →
      (Memory.read s.buf ((s.tail.toNat + j) % capacity s.config)).isSome = true) ∧
    (s.run = true ∧ s.ovfIE = true ∧ s.capIE = true)

/-- R45: the initial mode: in every reachable state with `INITED = 0`, `GIE` and both enables are 0, so no
interrupt can be dispatched, and only INIT, `GIE 0`, TICK and PIN are admitted. -/
def Obligations.InitialModeAdmitsFourOperations : Prop :=
  ∀ s : State, Reachable s → s.inited = false →
    (s.gie = false ∧ s.ovfIE = false ∧ s.capIE = false) ∧
    (∀ i : Instr, (∃ t, exec i s = .next t) ↔
      i = .init ∨ i = .gie false ∨ i = .tick ∨ ∃ v, i = .pin v)

/-- What each operation does to the queue, seen as a list of events, oldest first: CAP with room adds its
event at the end, POP takes the first and answers it, every other operation leaves the list alone. -/
def Obligations.QueueIsAFifoList : Prop :=
  ∀ (i : Instr) (s t : State), Inv s → s.inited = true → exec i s = .next t →
    queue s ++ enqueuedBy i s = deliveredBy t.response ++ queue t

/-- R76: over any run, the events delivered by POPs, followed by those still queued, are the events that were
queued at its start followed by those of its successful enqueues: same events, same order, each once. -/
def Obligations.DeliveryIsFifo : Prop :=
  ∀ (ops : List Instr) (s t : State), Inv s → s.inited = true → runOps ops s = .next t →
    queue s ++ enqueuedIn ops s = deliveredIn ops s ++ queue t

/-- R201: loss is always counted: over any run, every CAP either enqueued its event or was counted in
`DROPPED`, modulo `2^16` (R202, R245). -/
def Obligations.EveryCaptureIsEnqueuedOrCounted : Prop :=
  ∀ (ops : List Instr) (s t : State), s.inited = true → runOps ops s = .next t →
    (enqueuedIn ops s).length ≤ ops.count .cap ∧
    t.dropped = s.dropped + BitVec.ofNat 16 (ops.count .cap - (enqueuedIn ops s).length)

/-- S2, R143 (f): from an empty queue, enqueueing events without a POP keeps the first `CAPACITY - 1`
unchanged and drops and counts exactly the rest. -/
def Obligations.BoundedCapacityCountsDrops : Prop :=
  ∀ (evs : List CaptureEvent) (s : State), Inv s → s.inited = true → s.head = s.tail →
    queue (enqAll evs s) = evs.take (capacity s.config - 1) ∧
    (enqAll evs s).dropped =
      s.dropped + BitVec.ofNat 16 (evs.length - (capacity s.config - 1))

/-- S1, R76: from an empty queue, `N ≤ CAPACITY - 1` enqueues followed by `N` POPs: every POP is Done, and the
popped sequence equals the enqueued sequence exactly, in order. -/
def Obligations.EnqueuesThenPopsGiveTheSequence : Prop :=
  ∀ (evs : List CaptureEvent) (s : State), Inv s → s.inited = true → s.head = s.tail →
    evs.length ≤ capacity s.config - 1 →
    (∃ t, runOps (List.replicate evs.length .pop) (enqAll evs s) = .next t ∧ t.head = t.tail) ∧
    deliveredIn (List.replicate evs.length .pop) (enqAll evs s) = evs

/-- R205, R208: an enabled service stays enabled under every operation but itself and `GIE 0`. -/
def Obligations.EnabledServicesStayEnabled : Prop :=
  ∀ (i : Instr) (s t : State), exec i s = .next t → i ≠ .gie false →
    (capEnabled s = true → i ≠ .cap → capEnabled t = true) ∧
    (ovfEnabled s = true → i ≠ .ovf → ovfEnabled t = true)

/-- R251: under weak fairness of the dispatcher, where CAP is enabled and interrupts are not disabled from then
on, a CAP is eventually taken, and it enqueues the event it composes or counts the drop. It need not be the first
CAP from then on, and the edge it serves need not be the one that was latched at the start: an edge latched
before service can be lost under `Overwrite` (R244). -/
def Obligations.FairDispatchServesEveryCapture : Prop :=
  ∀ (ops : Nat → Instr) (at_ : Nat → State) (n : Nat),
    Execution ops at_ → WeaklyFair ops at_ → Inv (at_ n) → capEnabled (at_ n) = true →
    (∀ m, n ≤ m → ops m ≠ .gie false) →
    ∃ m, n ≤ m ∧ ops m = .cap ∧ (at_ (m + 1)).capPend = false ∧
      ((queue (at_ (m + 1)) = queue (at_ m) ++ [captureEvent (at_ m)] ∧
          (at_ (m + 1)).dropped = (at_ m).dropped) ∨
       (queue (at_ (m + 1)) = queue (at_ m) ∧
          (at_ (m + 1)).dropped = (at_ m).dropped + 1#16))
end

