-- ==== Sys2Proof/Tests/Slice0.lean ====
section
/-! SUPPORT. The model's own tests. Expected results are from the tables and rules of spec/ (95_test_vectors.md V1 to V9, S6; the rule named at each group); the last part holds one witness for the hypotheses of each statement. -/

namespace Sys2Proof.Tests

open Sys2Proof.Machine

/-! ### Helpers -/

/-- A field of the state an operation leaves, where it is Done. -/
def field {α : Type} (o : Outcome) (f : State → α) : Option α :=
  match o with
  | .next t => some (f t)
  | .fault _ => none
  | .refused _ => none

/-- The reason an operation is refused for, where it is. -/
def reason (o : Outcome) : Option Refusal :=
  match o with
  | .refused r => some r
  | .next _ => none
  | .fault _ => none

/-- The vectors' configuration: `CAPACITY = 4`, `INIT_EDGE = Rising`, filter off. -/
def cfg (r : Recapture) : Config :=
  { capacityLog2 := 2, noiseFilter := false, initEdge := .rising, recapture := r }

/-- Some values drawn at reset, none of them zero. -/
def drawn : ResetDraw :=
  { cnt := 0x1234, icr := 0x5678, ovh := 0x9ABC, head := 0x7F, tail := 0xF0, dropped := 0x0BAD, run := true,
    edgeSel := .falling, ncEn := true, ovfPend := true, capPend := true, pin := false }

/-- A reset state, and the state INIT and then `GIE 1` leave from it. -/
def start (r : Recapture) : State := State.atReset (cfg r) drawn
def ready (r : Recapture) : State := { onInitialize (start r) with gie := true }

/-- The state of V6's rows: `INITED = GIE = CAP_IE = CAP_PEND = 1`. -/
def v6 (e : Edge) (icr : Count) (f : Bool) (ovh : Count) (head tail : Index) (dropped : Count) : State :=
  { ready .overwrite with
    edgeSel := e, icr := icr, ovfPend := f, ovh := ovh, head := head, tail := tail, dropped := dropped, capPend := true }

/-- `ready` with one event in slot 0, waiting. -/
def one : State := { ready .overwrite with head := 0x01, buf := [(0, ⟨100, .rising⟩)] }

/-- `ready` with three events waiting: a full queue of `CAPACITY = 4`. -/
def full : State :=
  { ready .overwrite with
    head := 0x03, buf := [(0, ⟨100, .rising⟩), (1, ⟨150, .falling⟩), (2, ⟨205, .rising⟩)] }

/-! ### WellFormed: each check refuses an ill-formed term (R6, R95); every operation is well formed (R92, R94) -/

theorem test_parameters_wellFormed :
    (Parameters.mk 256 true .falling .hold).wellFormed = true ∧
    ([3, 0, 512, 257].all fun n => !(Parameters.mk n true .falling .hold).wellFormed) = true := by decide

theorem test_word_group_reserved : wordLegal 0x00 = false ∧ wordLegal 0x50 = false ∧ wordLegal 0xFF = false := by decide
theorem test_word_function_reserved :
    wordLegal 0x14 = false ∧ wordLegal 0x24 = false ∧ wordLegal 0x36 = false ∧ wordLegal 0x44 = false := by decide
theorem test_word_formatN_bit_reserved :
    ([0x11#8, 0x21#8, 0x23#8, 0x31#8, 0x33#8, 0x35#8, 0x41#8].all fun w => !wordLegal w) = true := by decide
theorem test_word_legal : wordLegal 0x13 = true ∧ wordLegal 0x43 = true ∧ wordLegal 0x34 = true := by decide
theorem test_instr_wellFormed : ∀ i : Instr, i.wellFormed = true := by
  intro i
  cases i <;> first | rfl | (rename_i v; cases v <;> rfl)

/-! ### Decoding: one word per operation, bit by bit from R93 -/

theorem test_decode_tick : decode 0b00010000#8 = .ok .tick := by decide
theorem test_decode_pin : decode 0b00010010#8 = .ok (.pin false) ∧ decode 0b00010011#8 = .ok (.pin true) := by decide
theorem test_decode_ovf : decode 0b00100000#8 = .ok .ovf := by decide
theorem test_decode_cap : decode 0b00100010#8 = .ok .cap := by decide
theorem test_decode_avail : decode 0b00110000#8 = .ok .avail := by decide
theorem test_decode_pop : decode 0b00110010#8 = .ok .pop := by decide
theorem test_decode_dropped : decode 0b00110100#8 = .ok .dropped := by decide
theorem test_decode_init : decode 0b01000000#8 = .ok .init := by decide
theorem test_decode_gie : decode 0b01000010#8 = .ok (.gie false) ∧ decode 0b01000011#8 = .ok (.gie true) := by decide
theorem test_encode_words :
    ([Instr.tick, .pin false, .pin true, .ovf, .cap, .avail, .pop, .dropped, .init, .gie false, .gie true].map encode) =
      [0x10, 0x12, 0x13, 0x20, 0x22, 0x30, 0x32, 0x34, 0x40, 0x42, 0x43] := by decide

/-! ### The step from reset, as the host asks it -/

theorem test_table_word : decodeTableWord 8 0x43 = some (.gie true) ∧ decodeTableWord 8 0x33 = none := by decide
theorem test_step_runs_init : field (step (State.reset.withFetchWord 8 0x40)) State.inited = some true := by decide
theorem test_step_runs_tick : field (step (State.reset.withFetchWord 8 0x10)) State.inited = some false := by decide
theorem test_step_refuses_pop : reason (step (State.reset.withFetchWord 8 0x32)) = some .notInitialised := by decide
theorem test_step_refuses_reserved : reason (step (State.reset.withFetchWord 8 0x33)) = some .reservedOp := by decide
theorem test_reset_memory : Memory.wf State.reset.buf := by decide

/-! ### The operations (V1 to V8) -/

theorem test_tick_wraps :
    field (exec .tick { ready .hold with cnt := 0xFFFF }) (fun t => (t.cnt, t.ovfPend, t.ovh)) = some (0x0000, true, 0x0000) := by decide
theorem test_tick_quiesced :
    field (exec .tick { ready .hold with run := false, cnt := 0x1234 }) (fun t => (t.cnt, t.ovfPend)) = some (0x1234, false) := by decide

theorem test_pin_latches :
    field (exec (.pin true) { ready .hold with cnt := 0x0064 }) (fun t => (t.pin, t.icr, t.capPend)) = some (true, 0x0064, true) := by decide
theorem test_pin_recapture :
    field (exec (.pin true) { ready .overwrite with cnt := 0x0080, icr := 0x0064, capPend := true }) State.icr = some 0x0080 ∧
    field (exec (.pin true) { ready .hold with cnt := 0x0080, icr := 0x0064, capPend := true }) State.icr = some 0x0064 := by decide

theorem test_ovf_wraps :
    field (exec .ovf { ready .hold with ovfPend := true, ovh := 0xFFFF }) (fun t => (t.ovh, t.ovfPend)) = some (0x0000, false) := by decide
theorem test_ovf_not_enabled : reason (exec .ovf { ready .hold with ovfPend := true, gie := false }) = some .notEnabled := by decide

theorem test_adjust_table :
    adjust false 0x7FFF 0x0012 = 0x0012 ∧ adjust true 0x7FFF 0x0012 = 0x0013 ∧ adjust true 0x8000 0x0012 = 0x0012 ∧
    adjust true 0x0005 0xFFFF = 0x0000 := by decide
theorem test_abstick_table : abstick 0x0013 0x7FFF = 0x00137FFF ∧ abstick 0xFFFF 0xFFFF = 0xFFFFFFFF := by decide

theorem test_cap_enqueues :
    field (exec .cap (v6 .falling 0x7FFF true 0x0012 0x02 0x00 0x0000))
      (fun t => (Memory.read t.buf 2, t.head, t.edgeSel, t.capPend, t.ovh, t.ovfPend)) =
      some (some ⟨0x00137FFF, .falling⟩, 0x03, .rising, false, 0x0012, true) := by decide
theorem test_cap_drops :
    field (exec .cap (v6 .falling 0x0200 false 0x0001 0x03 0x00 0xFFFF))
      (fun t => (t.buf, t.head, t.dropped, t.edgeSel, t.capPend)) = some ([], 0x03, 0x0000, .rising, false) := by decide

theorem test_avail : field (exec .avail full) State.response = some (.avail 1) ∧
    field (exec .avail (ready .hold)) State.response = some (.avail 0) := by decide
theorem test_pop_takes : field (exec .pop full) (fun t => (t.response, t.tail, t.buf)) =
    some (.popped 0x300000064, 0x01, full.buf) := by decide
theorem test_pop_index_wraps :
    field (exec .pop { ready .hold with head := 0x02, tail := 0x03, buf := [(3, ⟨215, .falling⟩)] })
      (fun t => (t.response, t.tail)) = some (.popped 0x2000000D7, 0x00) := by decide
theorem test_dropped : field (exec .dropped { ready .hold with dropped := 0xFFFF }) (fun t => (t.response, t.dropped)) =
    some (.count 0xFFFF, 0xFFFF) := by decide
theorem test_init_from_reset :
    field (exec .init (start .hold)) (fun t => (t.cnt, t.ovh, t.head, t.tail, t.dropped)) =
      some (0x0000, 0x0000, 0x00, 0x00, 0x0000) ∧
    field (exec .init (start .hold)) (fun t => (t.icr, t.pin, t.gie, ctrlByte t, flagsByte t)) =
      some (0x5678, false, false, 0x1B, 0x00) := by decide
theorem test_init_refused :
    reason (exec .init (ready .hold)) = some .initTwice ∧
    reason (exec .init { start .hold with gie := true }) = some .initWithInterruptsEnabled := by decide
theorem test_gie : field (exec (.gie true) { ready .hold with gie := false }) State.gie = some true ∧
    reason (exec (.gie true) (start .hold)) = some .notInitialised := by decide

theorem test_build :
    field (build ⟨256, true, .falling, .hold⟩ drawn) (fun t => capacity t.config) = some 256 ∧
    ([3, 0, 512].all fun n => decide (reason (build ⟨n, true, .falling, .hold⟩ drawn) = some .badConfiguration)) = true := by decide

/-! ### Encodings, dumps and written forms (R97, R100 to R102, V7, V9) -/

theorem test_event_word : eventWord ⟨0x0000FFFE, .rising⟩ = 0x10000FFFE ∧
    eventImage ⟨0x0000FFFE, .rising⟩ = [0xFE, 0xFF, 0x00, 0x00, 0x01] := by decide
theorem test_dump_registers :
    (List.range 12).map (fun n => dumpRegister n one) =
      [some 0x0000, some 0x5678, some 0x0000, some 0x0001, some 0x0000, some 0x0000, some 0x001B, some 0x0000,
       some 0x0001, some 0x0000, some 0x0001, none] := by decide
theorem test_written_ops : writtenOp .dropped = "DROPPED".toList ∧ writtenOp (.gie true) = "GIE 1".toList := by decide
theorem test_written_responses : writtenResponse (.count 0x0002) = "-> 0x0002".toList ∧
    writtenResponse (.popped 0) = "-> none".toList ∧ writtenResponse (.avail 1) = "-> 1".toList := by decide

/-! ### The queue (S6): ENQ of five events into the three free slots; the index wraps -/

theorem test_scenario_second_half :
    let s := enqAll [⟨215, .falling⟩, ⟨225, .rising⟩, ⟨235, .falling⟩, ⟨245, .rising⟩, ⟨255, .falling⟩]
      { ready .hold with head := 0x03, tail := 0x03 }
    (s.head, s.tail, s.dropped) = (0x02, 0x03, 0x0002) ∧
    queue s = [⟨215, .falling⟩, ⟨225, .rising⟩, ⟨235, .falling⟩] := by decide

/-! ### Witnesses: a concrete state and operands that meet the hypotheses of each statement -/

theorem ready_inv (r : Recapture) : Inv (ready r) := by
  cases r <;> exact ⟨by decide, by decide, by decide, by decide, by decide, by decide, by decide⟩
theorem one_inv : Inv one := ⟨by decide, by decide, by decide, by decide, by decide, by decide, by decide⟩
theorem full_inv : Inv full := ⟨by decide, by decide, by decide, by decide, by decide, by decide, by decide⟩

theorem witness_DecodingOfThe256Words :
    (0x11#8) ∉ [0x10#8, 0x12#8, 0x13#8, 0x20#8, 0x22#8, 0x30#8, 0x32#8, 0x34#8, 0x40#8, 0x42#8, 0x43#8] := by decide
theorem witness_ReservedWordsAreRefused :
    (queueWord 0x44 (start .hold)).schedule = 0x44 :: [] ∧ wordLegal 0x44 = false := by decide
theorem witness_StepRunsTheQueuedOperation :
    (queueWord 0x13 (start .hold)).schedule = 0x13 :: [] ∧ decode 0x13 = .ok (.pin true) := by decide
theorem witness_StepTakesAFreeOperation : (start .hold).schedule = [] := by decide
theorem witness_QueuedTableWordRunsNext : decodeTableWord 8 0x34 = some .dropped := by decide
theorem witness_OnlyGoodCapacitiesAreBuilt :
    (Parameters.mk 1 false .rising .hold).wellFormed = true ∧ (Parameters.mk 256 false .rising .hold).wellFormed = true ∧
    (Parameters.mk 257 false .rising .hold).wellFormed = false := by decide
theorem witness_TickCountsAndFlagsTheWrap :
    ((ready .hold).run = true ∧ { ready .hold with cnt := 0xFFFF }.cnt = 0xFFFF#16) ∧
    (ready .hold).cnt ≠ 0xFFFF#16 ∧ { ready .hold with run := false }.run = false := by decide
theorem witness_TicksAdvanceTheCounter : (ready .hold).run = true := by decide
theorem witness_PinLatchesTheArmedEdge :
    false = (ready .hold).pin ∧
    (true ≠ (ready .hold).pin ∧ (ready .hold).edgeSel = (if true then Edge.rising else Edge.falling) ∧
      (ready .hold).capPend = false) ∧
    ((v6 .rising 0 false 0 0 0 0).config.recapture = .overwrite ∧ (v6 .rising 0 false 0 0 0 0).capPend = true) ∧
    ({ ready .hold with capPend := true }.capPend = true ∧ { ready .hold with capPend := true }.config.recapture = .hold) ∧
    { ready .hold with edgeSel := .falling }.edgeSel ≠ (if true then Edge.rising else Edge.falling) := by decide
theorem witness_EdgesBeforeServiceAreLostUncounted :
    (ready .hold).run = true ∧ (ready .hold).capPend = false ∧ (ready .hold).pin = !true ∧
    (ready .hold).edgeSel = edgeOfBit true := by decide
theorem witness_BoundaryGuardCases : (0x7FFF#16).toNat < 0x8000 ∧ 0x8000 ≤ (0x8000#16).toNat := by decide

def bothPending (icr : Count) : State := { one with icr := icr, ovfPend := true, capPend := true }
theorem bothPending_inv (icr : Count) : Inv (bothPending icr) :=
  ⟨one_inv.bufWf, one_inv.bufInSpace, one_inv.beforeInit, one_inv.armed, one_inv.headInMask, one_inv.tailInMask,
    one_inv.queuedWritten⟩

theorem witness_OvfCountsOneWrap :
    ((bothPending 0).inited = true ∧ (bothPending 0).gie = true ∧ (bothPending 0).ovfIE = true ∧
      (bothPending 0).ovfPend = true) ∧
    ¬ (one.inited = true ∧ one.gie = true ∧ one.ovfIE = true ∧ one.ovfPend = true) := by decide
theorem witness_CapEnqueuesOrCountsTheDrop :
    let room := v6 .rising 0x7FFF true 0xFFFF 0x03 0x01 0
    let noRoom := v6 .rising 0x8000 true 0xFFFF 0x03 0x00 0xFFFF
    (room.inited = true ∧ room.gie = true ∧ room.capIE = true ∧ room.capPend = true) ∧
    ((room.head + 1#8) &&& mask room.config ≠ room.tail ∧ room.head ≤ mask room.config) ∧
    (noRoom.inited = true ∧ noRoom.gie = true ∧ noRoom.capIE = true ∧ noRoom.capPend = true) ∧
    (noRoom.head + 1#8) &&& mask noRoom.config = noRoom.tail ∧
    ¬ (one.inited = true ∧ one.gie = true ∧ one.capIE = true ∧ one.capPend = true) := by decide
theorem witness_ServicesRunExactlyWhenEnabled : Inv (bothPending 0x7FFF) ∧ capEnabled (bothPending 0x7FFF) = true ∧
    Inv one ∧ capEnabled one = false ∧ ovfEnabled one = false :=
  ⟨bothPending_inv _, by decide, one_inv, by decide, by decide⟩
theorem witness_ServiceOrderAndTheGuard :
    (Inv (bothPending 0x7FFF) ∧ ovfEnabled (bothPending 0x7FFF) = true ∧ capEnabled (bothPending 0x7FFF) = true ∧
      (bothPending 0x7FFF).icr.toNat < 0x8000) ∧
    (Inv (bothPending 0x8000) ∧ ovfEnabled (bothPending 0x8000) = true ∧ capEnabled (bothPending 0x8000) = true ∧
      0x8000 ≤ (bothPending 0x8000).icr.toNat) :=
  ⟨⟨bothPending_inv _, by decide, by decide, by decide⟩, ⟨bothPending_inv _, by decide, by decide, by decide⟩⟩

/-- The runs of the witnesses below: each is Done. -/
theorem witness_CapturedEdgesAlternate :
    one.inited = true ∧
    ∃ t, runOps [.pin true, .cap, .pin false, .cap] one = .next t ∧
      1 < (capturedEdges [.pin true, .cap, .pin false, .cap] one).length :=
  ⟨by decide, _, rfl, by decide⟩
theorem witness_LostWrapsAreNeverCounted :
    one.inited = true ∧ ∃ t, runOps [.tick, .avail] { one with cnt := 0xFFFF, ovfPend := true } = .next t ∧
      lostWrapsIn [.tick, .avail] { one with cnt := 0xFFFF, ovfPend := true } = 1 :=
  ⟨by decide, _, rfl, by decide⟩

/-- INIT, `GIE 1` and a TICK; a rising edge latched at tick 1; no wrap; the CAP is enabled. -/
theorem witness_CapturedTickIsTheLatchTime :
    ∃ s₀ s₁ s₂ s₃ : State, exec .init (start .hold) = .next s₀ ∧
      TimelyCapture [.gie true, .tick] true [.tick] s₀ s₁ s₂ s₃ :=
  ⟨_, _, _, _, rfl, rfl, by decide, rfl, rfl, by decide, by decide, by decide, by decide, by decide, by decide⟩
/-- The same run, CAP, two more TICKs, and a falling edge. -/
theorem witness_TimelyTicksAreMonotone :
    ∃ s₀ s₁ s₂ s₃ u₁ u₂ u₃ : State, exec .init (start .hold) = .next s₀ ∧
      TimelyCapture [.gie true, .tick] true [.tick] s₀ s₁ s₂ s₃ ∧
      TimelyCapture ([.gie true, .tick] ++ [.pin true] ++ [.tick] ++ [.cap, .tick]) false [] s₀ u₁ u₂ u₃ ∧
      List.count Instr.tick [.gie true, .tick] / 2 ^ 32 =
        List.count Instr.tick ([.gie true, .tick] ++ [.pin true] ++ [.tick] ++ [.cap, .tick]) / 2 ^ 32 :=
  ⟨_, _, _, _, _, _, _, rfl,
    ⟨rfl, by decide, rfl, rfl, by decide, by decide, by decide, by decide, by decide, by decide⟩,
    ⟨rfl, by decide, rfl, rfl, by decide, by decide, by decide, by decide, by decide, by decide⟩, by decide⟩

theorem witness_AvailIsAPureHint :
    (one.inited = true ∧ one.head ≠ one.tail) ∧ ((ready .hold).inited = true ∧ (ready .hold).head = (ready .hold).tail) ∧
    (start .hold).inited = false := by decide
theorem witness_PopTakesTheOldest :
    (one.inited = true ∧ one.head ≠ one.tail ∧ one.tail ≤ mask one.config) ∧
    (Memory.read one.buf one.tail.toNat).getD (Config.unwrittenSlot one.tail.toNat) = ⟨100, .rising⟩ := by decide
theorem witness_DroppedReadsTheCounter : one.inited = true ∧ (start .hold).inited = false := by decide
theorem witness_AvailableStaysUntilPop :
    Inv one ∧ one.inited = true ∧ one.head ≠ one.tail ∧ Instr.pop ∉ [Instr.pin true, .cap] ∧
    ∃ t, runOps [.pin true, .cap] one = .next t :=
  ⟨one_inv, by decide, by decide, by decide, _, rfl⟩
theorem witness_ConsumerSeesOnlyTheQueue :
    let s' := { one with ovh := 0xFFFF, cnt := 1, icr := 2, ovfPend := true, gie := false }
    agentOf .pop = .consumer ∧ one.config = s'.config ∧ one.inited = s'.inited ∧ one.head = s'.head ∧
    one.tail = s'.tail ∧ one.dropped = s'.dropped ∧ one.buf = s'.buf := by decide
theorem witness_InitWritesItsList :
    ((start .hold).inited = false ∧ (start .hold).gie = false) ∧ one.inited = true ∧
    { start .hold with gie := true }.inited = false := by decide
theorem witness_InitForgetsTheRest :
    let s' := { start .hold with cnt := 7, head := 9, ovfPend := false, run := false }
    (∃ t, exec .init (start .hold) = .next t) ∧ (∃ t, exec .init s' = .next t) ∧ (start .hold).config = s'.config ∧
    (start .hold).buf = s'.buf ∧ (start .hold).icr = s'.icr ∧ (start .hold).pin = s'.pin ∧
    (start .hold).schedule = s'.schedule ∧ (start .hold).turn = s'.turn :=
  ⟨⟨_, rfl⟩, ⟨_, rfl⟩, rfl, rfl, rfl, rfl, rfl, rfl⟩
theorem witness_GieSetsTheEnable : one.inited = true ∧ (start .hold).inited = false := by decide
theorem witness_RefusalsAreAClosedList :
    (exec .pop (start .hold) = .refused .notInitialised ∧ exec .init one = .refused .initTwice) ∧
    exec .init { start .hold with gie := true } = .refused .initWithInterruptsEnabled ∧
    exec .ovf one = .refused .notEnabled ∧ exec .cap one = .refused .notEnabled := ⟨⟨rfl, rfl⟩, rfl, rfl, rfl⟩
theorem witness_OnlyTheOwnerWrites : ∃ t, exec .pop one = .next t ∧ t.tail ≠ one.tail := ⟨_, rfl, by decide⟩
theorem witness_OnlyTheHeadSlotIsWritten :
    (∃ t, exec .cap (bothPending 0) = .next t) ∧ isFull (bothPending 0) = false ∧ (0 : Nat) ≠ (bothPending 0).head.toNat ∧
    (∃ t, exec .cap { full with capPend := true } = .next t) ∧ isFull { full with capPend := true } = true :=
  ⟨⟨_, rfl⟩, by decide, by decide, ⟨_, rfl⟩, by decide⟩
theorem witness_SlotReadAfterWrite : Memory.wf full.buf := by decide
theorem witness_NoSlotOutsideTheMask :
    let c := { v6 .rising 0 false 0 0x04 0x00 0 with inited := true }
    let p := { one with tail := 0x04 }
    (capEnabled c = true ∧ isFull c = false ∧ ¬ c.head ≤ mask c.config) ∧
    (p.inited = true ∧ p.head ≠ p.tail ∧ ¬ p.tail ≤ mask p.config) := by decide
theorem witness_NoStepFaults : Inv (queueWord 0x32 full) :=
  ⟨full_inv.bufWf, full_inv.bufInSpace, full_inv.beforeInit, full_inv.armed, full_inv.headInMask,
    full_inv.tailInMask, full_inv.queuedWritten⟩
theorem witness_StepKeepsTheInvariant : Inv (queueWord 0x32 full) ∧ ∃ t, step (queueWord 0x32 full) = .next t :=
  ⟨witness_NoStepFaults, _, rfl⟩

/-- Reset, then INIT as the one queued word. -/
theorem witness_ReachableStatesMeetR47 : ∃ s, Reachable s ∧ s.inited = true :=
  ⟨_, .stepped (.queued [0x40] (.reset (cfg .hold) drawn)) rfl, rfl⟩
theorem witness_InitialModeAdmitsFourOperations : Reachable (start .hold) ∧ (start .hold).inited = false :=
  ⟨.reset _ _, rfl⟩
theorem witness_QueueIsAFifoList : Inv full ∧ full.inited = true ∧ ∃ t, exec .pop full = .next t :=
  ⟨full_inv, rfl, _, rfl⟩
theorem witness_DeliveryIsFifo :
    Inv full ∧ full.inited = true ∧ ∃ t, runOps [.pop, .pin true, .cap, .pop] full = .next t :=
  ⟨full_inv, rfl, _, rfl⟩
theorem witness_EveryCaptureIsEnqueuedOrCounted :
    full.inited = true ∧ ∃ t, runOps [.pin true, .cap, .pop, .pin false, .cap] full = .next t := ⟨rfl, _, rfl⟩
theorem witness_BoundedCapacityCountsDrops :
    Inv (ready .hold) ∧ (ready .hold).inited = true ∧ (ready .hold).head = (ready .hold).tail := ⟨ready_inv _, rfl, rfl⟩
theorem witness_EnqueuesThenPopsGiveTheSequence :
    Inv (ready .hold) ∧ (ready .hold).inited = true ∧ (ready .hold).head = (ready .hold).tail ∧
    [CaptureEvent.mk 100 .rising, ⟨150, .falling⟩, ⟨205, .rising⟩].length ≤ capacity (ready .hold).config - 1 :=
  ⟨ready_inv _, rfl, rfl, by decide⟩
theorem witness_EnabledServicesStayEnabled :
    (∃ t, exec .tick (bothPending 0) = .next t) ∧ Instr.tick ≠ .gie false ∧ capEnabled (bothPending 0) = true ∧
    ovfEnabled (bothPending 0) = true ∧ Instr.tick ≠ .cap ∧ Instr.tick ≠ .ovf := ⟨⟨_, rfl⟩, by decide⟩

/-- A fair execution: CAP, then `GIE 1` for ever. -/
def fairOps (n : Nat) : Instr := if n = 0 then .cap else .gie true
def fairStates (n : Nat) : State :=
  if n = 0 then { one with capPend := true } else stateAfter .cap { one with capPend := true }

theorem witness_FairDispatchServesEveryCapture :
    Execution fairOps fairStates ∧ WeaklyFair fairOps fairStates ∧ Inv (fairStates 0) ∧
    capEnabled (fairStates 0) = true ∧ ∀ m, 0 ≤ m → fairOps m ≠ .gie false := by
  refine ⟨?_, ⟨?_, ?_⟩, ?_, by decide, ?_⟩
  · intro n
    cases n <;> rfl
  · intro n h
    have := h (n + 1) (by omega)
    simp [fairStates, show capEnabled (stateAfter .cap { one with capPend := true }) = false by decide] at this
  · intro n h
    have := h (n + 1) (by omega)
    simp [fairStates, show ovfEnabled (stateAfter .cap { one with capPend := true }) = false by decide] at this
  · exact ⟨one_inv.bufWf, one_inv.bufInSpace, one_inv.beforeInit, one_inv.armed, one_inv.headInMask,
      one_inv.tailInMask, one_inv.queuedWritten⟩
  · intro m _
    unfold fairOps
    split <;> simp

end Sys2Proof.Tests
end

section
/-! PROOFS. Building the machine: which capacities are the powers of R6, and what `build` answers for each (spec/00_scope.md R6, R13; spec/60_exceptions.md R203). -/

namespace Sys2Proof.Machine

@[simp] theorem capacityLog2Of_two_pow (k : Fin 9) : capacityLog2Of (2 ^ k.val) = some k := by
  revert k
  decide

theorem two_pow_of_capacityLog2Of {n : Nat} {k : Fin 9} (h : capacityLog2Of n = some k) : n = 2 ^ k.val := by
  unfold capacityLog2Of at h
  split at h <;> cases h <;> rfl

/-- The nine numbers R6 writes out are the powers `2^k`, `k` in 0..8, it describes. -/
theorem wellFormed_iff_two_pow (p : Parameters) : p.wellFormed = true ↔ ∃ k : Fin 9, p.capacity = 2 ^ k.val := by
  have powers : [1, 2, 4, 8, 16, 32, 64, 128, 256] = (List.finRange 9).map (fun k => 2 ^ k.val) := by decide
  rw [Parameters.wellFormed, powers, List.contains_iff_mem, List.mem_map]
  simp [eq_comm]

theorem capacityLog2Of_eq_none (p : Parameters) (h : p.wellFormed = false) : capacityLog2Of p.capacity = none := by
  rw [Option.eq_none_iff_forall_ne_some]
  intro k hk
  have built : p.wellFormed = true := (wellFormed_iff_two_pow p).2 ⟨k, two_pow_of_capacityLog2Of hk⟩
  simp [h] at built

theorem build_of_capacity_eq_two_pow (p : Parameters) (d : ResetDraw) (k : Fin 9) (h : p.capacity = 2 ^ k.val) :
    build p d = .next (State.atReset ⟨k, p.noiseFilter, p.initEdge, p.recapture⟩ d) := by
  simp [build, h]

theorem build_of_not_wellFormed (p : Parameters) (d : ResetDraw) (h : p.wellFormed = false) :
    build p d = .refused .badConfiguration := by
  simp [build, capacityLog2Of_eq_none p h]

/-- Settles O12: a well-formed `CAPACITY` is `2^k`, whose `k` is the exponent that `build` finds; any other has
no exponent. -/
theorem onlyGoodCapacitiesAreBuilt : Obligations.OnlyGoodCapacitiesAreBuilt := by
  intro p d
  refine ⟨fun hwf => ?_, build_of_not_wellFormed p d⟩
  obtain ⟨k, hk⟩ := (wellFormed_iff_two_pow p).1 hwf
  have hcap : capacity ⟨k, p.noiseFilter, p.initEdge, p.recapture⟩ = p.capacity := hk.symm
  exact ⟨_, build_of_capacity_eq_two_pow p d k hk, hcap, by rw [mask_toNat, hcap], rfl, rfl, rfl⟩

end Sys2Proof.Machine
end

section
/-! PROOFS. The bits of `CTRL` and `FLAGS` in a dump (spec/10_state.md R38, spec/30_encoding.md R98). -/

namespace Sys2Proof.Machine

/-- The dump bit of a polarity is 1 exactly for Rising (R98). -/
theorem edgeBit_eq_decide (e : Edge) : edgeBit e = decide (e = .rising) := by
  cases e <;> rfl

theorem getLsbD_ofBool_append {k : Nat} (b : Bool) (x : BitVec k) (n : Nat) :
    (BitVec.ofBool b ++ x).getLsbD n = if n < k then x.getLsbD n else decide (n = k) && b := by
  rw [BitVec.getLsbD_append, BitVec.getLsbD_ofBool]
  by_cases hn : n < k
  · simp [hn]
  · simp [hn, show n - k = 0 ↔ n = k by omega]

theorem getLsbD_zero_append {j k : Nat} (x : BitVec k) (n : Nat) : (0#j ++ x).getLsbD n = x.getLsbD n := by
  rw [BitVec.getLsbD_append]
  by_cases hn : n < k
  · simp [hn]
  · simp [hn, BitVec.getLsbD_of_ge x n (by omega)]

/-- Settles O7: the zeros on top have no bit set, and below them each field of `CTRL` and of `FLAGS` is the bit at
the width of what stands to its right. -/
theorem controlAndFlagBitsOfADump : Obligations.ControlAndFlagBitsOfADump := by
  intro s
  refine ⟨fun n => ?_, fun n => ?_⟩
  · refine (getLsbD_zero_append (j := 3) _ n).trans ?_
    simp only [getLsbD_ofBool_append, BitVec.getLsbD_ofBool]
    match n with
    | 0 | 1 | 2 | 3 | 4 => simp [edgeBit_eq_decide]
    | n + 5 => simp
  · refine (getLsbD_zero_append (j := 6) _ n).trans ?_
    simp only [getLsbD_ofBool_append, BitVec.getLsbD_ofBool]
    match n with
    | 0 | 1 | n + 2 => simp

end Sys2Proof.Machine
end

section
/-! PROOFS. What a step runs: the oldest queued word's operation, or the agents' free choice where none is queued
(spec/10_state.md R41, R46; assumption 1). -/

namespace Sys2Proof.Machine

theorem step_of_queued {s : State} {w : Byte} {rest : List Byte} {i : Instr} (hs : s.schedule = w :: rest)
    (hw : decode w = .ok i) : step s = exec i { s with schedule := rest } := by
  simp [step, fetch, hs, hw]

theorem step_of_unscheduled {s : State} (hs : s.schedule = []) :
    step s = exec (Config.freeOperation s.turn) { s with turn := s.turn + 1 } := by
  simp [step, fetch, hs]

theorem step_of_reserved {s : State} {w : Byte} {rest : List Byte} {e : DecodeReject}
    (hs : s.schedule = w :: rest) (hw : decode w = .error e) : step s = .refused .reservedOp := by
  cases e
  simp [step, fetch, hs, hw]

/-- Whatever is scheduled, a step that answers a next state is one operation, performed on the state with at most its
schedule and its turn moved on. -/
theorem exists_exec_of_step_next {s t : State} (h : step s = .next t) :
    ∃ (i : Instr) (words : List Byte) (turn : Nat),
      exec i { s with schedule := words, turn := turn } = .next t := by
  cases hs : s.schedule with
  | nil =>
    rw [step_of_unscheduled hs] at h
    exact ⟨_, s.schedule, s.turn + 1, h⟩
  | cons w rest =>
    cases hw : decode w with
    | ok i =>
      rw [step_of_queued hs hw] at h
      exact ⟨i, rest, s.turn, h⟩
    | error e =>
      rw [step_of_reserved hs hw] at h
      cases h

/-- Settles O8. -/
theorem stepRunsTheQueuedOperation : Obligations.StepRunsTheQueuedOperation :=
  fun _ _ _ _ hs hw => step_of_queued hs hw

/-- Settles O9. -/
theorem stepTakesAFreeOperation : Obligations.StepTakesAFreeOperation :=
  fun _ hs => step_of_unscheduled hs

end Sys2Proof.Machine
end

section
/-! PROOFS. The invariant holds at reset and every operation keeps it (spec/10_state.md R45, R47), so every reachable
state has it; and what that says of the reachable states before and after INIT. -/

namespace Sys2Proof.Machine

/-- The part of a state that the invariant speaks of. -/
def invariantView (s : State) : Config × Memory × Index × Index × Bool × Bool × Bool × Bool × Bool :=
  (s.config, s.buf, s.head, s.tail, s.run, s.ovfIE, s.capIE, s.gie, s.inited)

/-- The invariant is a property of its view: an update of any other field keeps it. -/
theorem Inv.of_invariantView_eq {s t : State} (h : Inv s) (hv : invariantView t = invariantView s) : Inv t := by
  obtain ⟨config, cnt, icr, ovh, head, tail, dropped, run, edgeSel, ncEn, ovfIE, capIE, ovfPend, capPend, gie, pin,
    inited, buf, schedule, turn, response⟩ := t
  simp only [invariantView, Prod.mk.injEq] at hv
  obtain ⟨rfl, rfl, rfl, rfl, rfl, rfl, rfl, rfl, rfl⟩ := hv
  exact ⟨h.bufWf, h.bufInSpace, h.beforeInit, h.armed, h.headInMask, h.tailInMask, h.queuedWritten⟩

/-- Settles O13: at reset the enables and `INITED` are 0 and no slot is listed, whatever was drawn. -/
theorem resetMeetsTheInvariant : Obligations.ResetMeetsTheInvariant := by
  intro c d
  exact {
    bufWf := List.Pairwise.nil
    bufInSpace := by simp [State.atReset]
    beforeInit := fun _ => ⟨rfl, rfl, rfl⟩
    armed := by simp [State.atReset]
    headInMask := by simp [State.atReset]
    tailInMask := by simp [State.atReset]
    queuedWritten := by simp [State.atReset] }

/-- A write leaves written what was written, and the slot written besides. -/
theorem isSome_read_write_iff (m : Memory) (a b : Nat) (ev : CaptureEvent) :
    (Memory.read (Memory.write m a ev) b).isSome = true ↔ b = a ∨ (Memory.read m b).isSome = true := by
  by_cases hb : b = a
  · simp [hb, read_write_same]
  · simp [hb, read_write_ne]

/-- The queue is one longer, and its new last place is the slot just written. -/
theorem inv_capEnqueueState {s : State} (h : Inv s) (hi : s.inited = true) (hf : isFull s = false) :
    Inv (capEnqueueState s) := by
  obtain ⟨hhead, htail⟩ := h.indices hi
  have hocc : occupancy (capEnqueueState s) = occupancy s + 1 := occupancy_enqueue rfl rfl rfl hhead htail hf
  exact {
    bufWf := write_wf h.bufWf _ _
    bufInSpace := fun x hx => by
      rcases mem_write hx with rfl | hx
      · exact hhead
      · exact h.bufInSpace x hx
    beforeInit := h.beforeInit
    armed := h.armed
    headInMask := fun _ => advance_le_mask _ _
    tailInMask := h.tailInMask
    queuedWritten := fun _ j hj => by
      have written_or_head : (slotAt j s).toNat = s.head.toNat ∨
          (Memory.read s.buf (slotAt j s).toNat).isSome = true := by
        rcases Nat.lt_succ_iff_lt_or_eq.1 (hocc ▸ hj) with hj | rfl
        · exact .inr (h.queuedWritten hi j hj)
        · exact .inl (congrArg BitVec.toNat (slotAt_occupancy s hhead))
      exact (isSome_read_write_iff _ _ _ _).2 written_or_head }

/-- The queue is one shorter, and its places are those of the old queue but the first. -/
theorem inv_popTakeState {s : State} (h : Inv s) (hi : s.inited = true) (he : isEmpty s = false) :
    Inv (popTakeState s) := by
  obtain ⟨hhead, htail⟩ := h.indices hi
  have hocc : occupancy s = occupancy (popTakeState s) + 1 := occupancy_dequeue rfl rfl rfl hhead htail he
  have hslot (j : Nat) : slotAt j (popTakeState s) = slotAt (j + 1) s :=
    slotAt_dequeue (s := s) (t := popTakeState s) rfl rfl j
  exact {
    bufWf := h.bufWf
    bufInSpace := h.bufInSpace
    beforeInit := h.beforeInit
    armed := h.armed
    headInMask := h.headInMask
    tailInMask := fun _ => advance_le_mask _ _
    queuedWritten := fun _ j hj => by
      rw [hslot]
      exact h.queuedWritten hi (j + 1) (by omega) }

/-- INIT empties the queue and arms both interrupts (R190). -/
theorem inv_onInitialize {s : State} (h : Inv s) : Inv (onInitialize s) := by
  have hin : (onInitialize s).head.toNat < capacity (onInitialize s).config := capacity_pos _
  have hocc : occupancy (onInitialize s) = 0 := (occupancy_eq_zero _ hin hin).2 rfl
  exact {
    bufWf := h.bufWf
    bufInSpace := h.bufInSpace
    beforeInit := by simp [onInitialize]
    armed := fun _ => ⟨rfl, rfl, rfl⟩
    headInMask := fun _ => (le_mask_iff _ _).2 hin
    tailInMask := fun _ => (le_mask_iff _ _).2 hin
    queuedWritten := fun _ j hj => by simp [hocc] at hj }

/-- `GIE 1` is admitted from INIT on only, so the initial mode keeps `GIE = 0` (R191). -/
theorem inv_setGie {s : State} {v : Bool} (h : Inv s) (hv : v = true → s.inited = true) :
    Inv { s with gie := v } where
  bufWf := h.bufWf
  bufInSpace := h.bufInSpace
  beforeInit := fun (hi : s.inited = false) => by
    obtain ⟨-, hovf, hcap⟩ := h.beforeInit hi
    have hgie : v = false := by simpa [hi] using hv
    exact ⟨hgie, hovf, hcap⟩
  armed := h.armed
  headInMask := h.headInMask
  tailInMask := h.tailInMask
  queuedWritten := h.queuedWritten

theorem inv_respond {s : State} (r : Response) (h : Inv s) : Inv (respond r s) := h.of_invariantView_eq rfl

/-- Only CAP with room, POP of an event, INIT and GIE write a field that the invariant speaks of. -/
theorem exec_keeps_inv {i : Instr} {s t : State} (h : Inv s) (hx : exec i s = .next t) : Inv t := by
  rcases exec_next_cases hx with ⟨-, rfl⟩ | ⟨v, -, rfl⟩ | ⟨-, -, rfl⟩ | ⟨-, -, -, rfl⟩ | ⟨-, hen, hf, -, rfl⟩ |
    ⟨-, -, rfl⟩ | ⟨-, -, -, rfl⟩ | ⟨-, hi, he, -, rfl⟩ | ⟨-, -, rfl⟩ | ⟨-, -, -, rfl⟩ | ⟨v, -, hv, rfl⟩
  · exact h.of_invariantView_eq rfl
  · exact h.of_invariantView_eq rfl
  · exact h.of_invariantView_eq rfl
  · exact h.of_invariantView_eq rfl
  · obtain ⟨hi, -, -, -⟩ := (capEnabled_iff s).1 hen
    exact inv_capEnqueueState h hi hf
  · exact inv_respond _ h
  · exact inv_respond _ h
  · exact inv_popTakeState h hi he
  · exact inv_respond _ h
  · exact inv_respond _ (inv_onInitialize h)
  · exact inv_respond _ (inv_setGie h hv)

theorem step_keeps_inv {s t : State} (h : Inv s) (hstep : step s = .next t) : Inv t := by
  obtain ⟨i, words, turn, hx⟩ := exists_exec_of_step_next hstep
  have hfetched : Inv { s with schedule := words, turn := turn } := h.of_invariantView_eq rfl
  exact exec_keeps_inv hfetched hx

/-- Settles O42: a step is one operation on the state with its schedule moved on, and every operation keeps the
invariant. -/
theorem stepKeepsTheInvariant : Obligations.StepKeepsTheInvariant :=
  fun _ _ h hstep => step_keeps_inv h hstep

theorem Reachable.inv {s : State} (h : Reachable s) : Inv s := by
  induction h with
  | reset c d => exact resetMeetsTheInvariant c d
  | queued words _ ih => exact ih.of_invariantView_eq rfl
  | stepped _ hstep ih => exact step_keeps_inv ih hstep

/-- Settles O43: R47 is the invariant from INIT on, its queued slots written out by their numbers. -/
theorem reachableStatesMeetR47 : Obligations.ReachableStatesMeetR47 := by
  intro s hr hi
  have h : Inv s := hr.inv
  refine ⟨h.indices hi, Nat.le_sub_one_of_lt (occupancy_lt s), fun j hj => ?_, h.armed hi⟩
  rw [← slotAt_toNat]
  exact h.queuedWritten hi j hj

/-- With `INITED = 0` and `GIE = 0`, only these four operations are admitted (R45, R203, R208). -/
theorem exec_done_iff_of_initial_mode {s : State} (hi : s.inited = false) (hg : s.gie = false) (i : Instr) :
    (∃ t, exec i s = .next t) ↔ i = .init ∨ i = .gie false ∨ i = .tick ∨ ∃ v, i = .pin v := by
  cases i with
  | tick => simp [exec_tick_eq]
  | pin v => simp [exec_pin_eq]
  | ovf => simp [exec_ovf_eq, ovfEnabled, hi]
  | cap => simp [exec_cap_eq, capEnabled, hi]
  | avail => simp [exec_avail_eq, hi]
  | pop => simp [exec_pop_eq, hi]
  | dropped => simp [exec_dropped_eq, hi]
  | init => simp [exec_init_eq, hi, hg]
  | gie v => cases v <;> simp [exec_gie_eq, hi]

/-- Settles O44: the invariant gives the enables of the initial mode, and they decide what is admitted. -/
theorem initialModeAdmitsFourOperations : Obligations.InitialModeAdmitsFourOperations := by
  intro s hr hi
  obtain ⟨hg, hovf, hcap⟩ := hr.inv.beforeInit hi
  exact ⟨⟨hg, hovf, hcap⟩, exec_done_iff_of_initial_mode hi hg⟩

end Sys2Proof.Machine
end

section
/-! PROOFS. The queue seen as a list: what each operation that is Done adds to it and takes from it
(spec/10_state.md R43, spec/41_capture_source.md R143, spec/42_event_queue_consumer_api.md R171). -/

namespace Sys2Proof.Machine

/-- The 33-bit value of an event loses nothing (R97). -/
theorem eventOfWord_eventWord (ev : CaptureEvent) : eventOfWord (eventWord ev) = ev := by
  obtain ⟨ticks, edge⟩ := ev
  have hticks : (eventWord ⟨ticks, edge⟩).extractLsb' 0 32 = ticks := by
    ext n hn
    simp [eventWord_bit, hn]
  have hedge : edgeOfBit ((eventWord ⟨ticks, edge⟩).getLsbD 32) = edge := by
    rw [eventWord_bit]
    cases edge <;> rfl
  rw [eventOfWord, hticks, hedge]

/-- POP's response loses nothing of what was taken (R96). -/
@[simp] theorem popEvent_popWord (o : Option CaptureEvent) : popEvent (popWord o) = o := by
  cases o with
  | none => rfl
  | some ev =>
    have hvalid : (popWord (some ev)).getLsbD 33 = true := by simp [popWord_bit]
    have hword : (popWord (some ev)).extractLsb' 0 33 = eventWord ev := by
      ext n hn
      simp [popWord_bit, hn]
    rw [popEvent, if_pos hvalid, hword, eventOfWord_eventWord]

theorem enqueuedBy_of_ne_cap {i : Instr} (s : State) (h : i ≠ .cap) : enqueuedBy i s = [] := by
  simp [enqueuedBy, h]

theorem enqueuedBy_cap_full {s : State} (h : isFull s = true) : enqueuedBy .cap s = [] := by
  simp [enqueuedBy, h]

theorem enqueuedBy_cap_room {s : State} (h : isFull s = false) : enqueuedBy .cap s = [captureEvent s] := by
  simp [enqueuedBy, h]

@[simp] theorem deliveredBy_popWord (o : Option CaptureEvent) :
    deliveredBy (.popped (popWord o)) = o.toList := by
  simp [deliveredBy]

theorem queue_capEnqueueState {s : State} (h : Inv s) (hi : s.inited = true) (hf : isFull s = false) :
    queue (capEnqueueState s) = queue s ++ [captureEvent s] := by
  obtain ⟨hhead, htail⟩ := h.indices hi
  exact queue_enqueue _ hhead htail hf rfl rfl rfl rfl

theorem queue_popTakeState {s : State} (h : Inv s) (hi : s.inited = true) (he : isEmpty s = false) :
    queue s = slotValue s.tail s :: queue (popTakeState s) := by
  obtain ⟨hhead, htail⟩ := h.indices hi
  exact queue_dequeue hhead htail he rfl rfl rfl rfl

/-- An operation that enqueues nothing, delivers nothing and leaves the list alone. -/
theorem fifo_of_queue_eq {i : Instr} {s t : State} (hadd : enqueuedBy i s = []) (hq : queue t = queue s)
    (htake : deliveredBy t.response = []) : queue s ++ enqueuedBy i s = deliveredBy t.response ++ queue t := by
  simp [hadd, hq, htake]

/-- Settles O45: CAP with room is `queue_capEnqueueState`, POP of an event is `queue_popTakeState`, INIT is not
admitted, and nothing else touches the list. -/
theorem queueIsAFifoList : Obligations.QueueIsAFifoList := by
  intro i s t h hi hx
  rcases exec_next_cases hx with ⟨rfl, rfl⟩ | ⟨v, rfl, rfl⟩ | ⟨rfl, -, rfl⟩ | ⟨rfl, -, hf, rfl⟩ |
    ⟨rfl, -, hf, -, rfl⟩ | ⟨rfl, -, rfl⟩ | ⟨rfl, -, -, rfl⟩ | ⟨rfl, -, he, -, rfl⟩ | ⟨rfl, -, rfl⟩ |
    ⟨-, hi', -, -⟩ | ⟨v, rfl, -, rfl⟩
  · exact fifo_of_queue_eq rfl rfl rfl
  · exact fifo_of_queue_eq rfl rfl rfl
  · exact fifo_of_queue_eq rfl rfl rfl
  · exact fifo_of_queue_eq (enqueuedBy_cap_full hf) rfl rfl
  · rw [enqueuedBy_cap_room hf, queue_capEnqueueState h hi hf]
    rfl
  · exact fifo_of_queue_eq rfl rfl rfl
  · exact fifo_of_queue_eq rfl rfl (deliveredBy_popWord none)
  · rw [queue_popTakeState h hi he, enqueuedBy_of_ne_cap s (by decide), List.append_nil]
    exact congrArg (· ++ queue (popTakeState s)) (deliveredBy_popWord (some _)).symm
  · exact fifo_of_queue_eq rfl rfl rfl
  · simp [hi] at hi'
  · exact fifo_of_queue_eq rfl rfl rfl

end Sys2Proof.Machine
end

section
/-! PROOFS. Who writes and who sees what (spec/10_state.md R44): the frame of every operation, register by register, and
what the consumer commands depend on (spec/20_memory.md R78). -/

namespace Sys2Proof.Machine

/-- Settles O37: of each effect an operation can have, the registers that its update does not name stand, and R44
gives the operation a `w` in those that it names. -/
theorem onlyTheOwnerWrites : Obligations.OnlyTheOwnerWrites := by
  intro i s t hx
  rcases exec_next_cases hx with ⟨rfl, rfl⟩ | ⟨v, rfl, rfl⟩ | ⟨rfl, -, rfl⟩ | ⟨rfl, -, -, rfl⟩ |
    ⟨rfl, -, -, -, rfl⟩ | ⟨rfl, -, rfl⟩ | ⟨rfl, -, -, rfl⟩ | ⟨rfl, -, -, -, rfl⟩ | ⟨rfl, -, rfl⟩ |
    ⟨rfl, -, -, rfl⟩ | ⟨v, rfl, -, rfl⟩
  · simp [countTick]
  · simp [detectEdge]
  · simp
  · simp [capDropState]
  · simp [capEnqueueState]
  · simp
  · simp
  · simp [popTakeState]
  · simp
  · simp [onInitialize]
  · simp

theorem isEmpty_congr {s s' : State} (hhead : s.head = s'.head) (htail : s.tail = s'.tail) :
    isEmpty s = isEmpty s' := by
  rw [isEmpty, isEmpty, hhead, htail]

theorem slotValue_congr {s s' : State} (i : Index) (hbuf : s.buf = s'.buf) : slotValue i s = slotValue i s' := by
  rw [slotValue, slotValue, hbuf]

/-- Settles O32: each consumer command's admission, test and answer are written in the configuration, `INITED`,
`HEAD`, `TAIL`, `DROPPED` and `BUF`, so both states take the same branch. -/
theorem consumerSeesOnlyTheQueue : Obligations.ConsumerSeesOnlyTheQueue := by
  intro i s s' hagent hconfig hinited hhead htail hdropped hbuf
  have hempty := isEmpty_congr hhead htail
  cases i with
  | avail =>
    rw [exec_avail_eq, exec_avail_eq, hinited, hempty]
    cases s'.inited <;> simp [htail]
  | pop =>
    rw [exec_pop_eq, exec_pop_eq, hinited, hempty, hconfig, htail]
    cases s'.inited
    · simp
    · cases isEmpty s'
      · cases slotExists s'.config s'.tail
        · simp
        · simp [popTakeState, hconfig, htail, slotValue_congr _ hbuf]
      · simp [htail]
  | dropped =>
    rw [exec_dropped_eq, exec_dropped_eq, hinited, hdropped]
    cases s'.inited <;> simp [htail]
  | tick | pin _ | ovf | cap | init | gie _ => cases hagent

end Sys2Proof.Machine
end

section
/-! PROOFS. The slots: a read after a write, which slot an operation writes, and the stop at an index that names none
(spec/20_memory.md R60 to R62, R66; spec/10_state.md R28). -/

namespace Sys2Proof.Machine

/-- Settles O39: at the slot written, at another, and the order of the indices. -/
theorem slotReadAfterWrite : Obligations.SlotReadAfterWrite := by
  intro m a b ev
  refine ⟨?_, fun hwf => write_wf hwf a ev⟩
  by_cases hb : b = a
  · rw [if_pos hb, hb, read_write_same]
  · rw [if_neg hb, read_write_ne m ev hb]

theorem slotExists_eq_false_of_not_le {c : Config} {i : Index} (h : ¬ i ≤ mask c) : slotExists c i = false :=
  decide_eq_false h

/-- Settles O40: past its admission and its queue test, each operation accesses the slot its index names. -/
theorem noSlotOutsideTheMask : Obligations.NoSlotOutsideTheMask := by
  intro s
  refine ⟨fun hen hroom hhead => ?_, fun hi hne htail => ?_⟩
  · simp [exec_cap_eq, hen, hroom, slotExists_eq_false_of_not_le hhead]
  · simp [exec_pop_eq, hi, (isEmpty_eq_false_iff s).2 hne, slotExists_eq_false_of_not_le htail]

/-- Only CAP writes `BUF` (R44). -/
theorem exec_buf_of_ne_cap {i : Instr} {s t : State} (hx : exec i s = .next t) (hi : i ≠ .cap) : t.buf = s.buf := by
  obtain ⟨-, -, -, -, -, -, -, -, -, -, -, -, -, -, -, -, -, hbuf⟩ := onlyTheOwnerWrites i s t hx
  by_contra hne
  exact hi (hbuf hne)

/-- Everything a CAP that is Done can have done (R143, R145). -/
theorem exec_cap_next_cases {s t : State} (hx : exec .cap s = .next t) :
    (isFull s = true ∧ t = capDropState s) ∨ (isFull s = false ∧ t = capEnqueueState s) := by
  rw [exec_cap_eq] at hx
  split at hx
  · split at hx
    next hf => exact .inl ⟨hf, (Host.Outcome.next.inj hx).symm⟩
    next hf =>
      split at hx
      · exact .inr ⟨Bool.eq_false_iff.2 hf, (Host.Outcome.next.inj hx).symm⟩
      · cases hx
  · cases hx

/-- Settles O38: CAP with room is one write, to slot `HEAD`; CAP that drops and every other operation leave `BUF`. -/
theorem onlyTheHeadSlotIsWritten : Obligations.OnlyTheHeadSlotIsWritten := by
  intro i s t hx
  by_cases hcap : i = .cap
  · subst hcap
    rcases exec_cap_next_cases hx with ⟨hf, rfl⟩ | ⟨hf, rfl⟩
    · have hbuf : (capDropState s).buf = s.buf := rfl
      simp [hf, hbuf]
    · have hbuf : (capEnqueueState s).buf = Memory.write s.buf s.head.toNat (captureEvent s) := rfl
      refine ⟨fun a _ _ ha => ?_, fun _ _ => ?_, fun h => ?_⟩
      · rw [hbuf, read_write_ne _ _ ha]
      · rw [hbuf, read_write_same]
      · simp [hf] at h
  · have hbuf := exec_buf_of_ne_cap hx hcap
    simp [hcap, hbuf]

end Sys2Proof.Machine
end

section
/-! PROOFS. Runs and the queue: what a run delivers and leaves queued is what it found and enqueued, so a run without a
POP empties no queue (spec/20_memory.md R72, R76). -/

namespace Sys2Proof.Machine

/-- What every operation that is Done keeps, every run that is Done keeps. -/
theorem runOps_keeps {P : State → Prop} (hstep : ∀ {i : Instr} {s t : State}, P s → exec i s = .next t → P t)
    {ops : List Instr} {s t : State} (hs : P s) (hrun : runOps ops s = .next t) : P t := by
  induction ops generalizing s with
  | nil =>
    cases hrun
    exact hs
  | cons i ops ih =>
    obtain ⟨u, hx, hrest⟩ := runOps_cons_next hrun
    exact ih (hstep hs hx) hrest

theorem runOps_keeps_inv {ops : List Instr} {s t : State} (h : Inv s) (hrun : runOps ops s = .next t) : Inv t :=
  runOps_keeps exec_keeps_inv h hrun

theorem runOps_keeps_inited {ops : List Instr} {s t : State} (hi : s.inited = true)
    (hrun : runOps ops s = .next t) : t.inited = true :=
  runOps_keeps (P := fun s => s.inited = true) (fun hi hx => exec_keeps_inited hx hi) hi hrun

theorem enqueuedIn_cons {i : Instr} {s u : State} (hx : exec i s = .next u) (ops : List Instr) :
    enqueuedIn (i :: ops) s = enqueuedBy i s ++ enqueuedIn ops u := by
  rw [enqueuedIn, stateAfter_next hx]

theorem deliveredIn_cons {i : Instr} {s u : State} (hx : exec i s = .next u) (ops : List Instr) :
    deliveredIn (i :: ops) s = deliveredBy u.response ++ deliveredIn ops u := by
  rw [deliveredIn, stateAfter_next hx]

/-- Settles O46, by induction on the run: its first operation moves the list by `queueIsAFifoList` and keeps the
invariant for the rest. -/
theorem deliveryIsFifo : Obligations.DeliveryIsFifo := by
  intro ops
  induction ops with
  | nil =>
    intro s t _ _ hrun
    cases hrun
    simp [enqueuedIn, deliveredIn]
  | cons i ops ih =>
    intro s t h hi hrun
    obtain ⟨u, hx, hrest⟩ := runOps_cons_next hrun
    have first := queueIsAFifoList i s u h hi hx
    have rest := ih u t (exec_keeps_inv h hx) (exec_keeps_inited hx hi) hrest
    calc queue s ++ enqueuedIn (i :: ops) s
        = (queue s ++ enqueuedBy i s) ++ enqueuedIn ops u := by rw [enqueuedIn_cons hx, List.append_assoc]
      _ = deliveredBy u.response ++ (queue u ++ enqueuedIn ops u) := by rw [first, List.append_assoc]
      _ = deliveredIn (i :: ops) s ++ queue t := by rw [rest, deliveredIn_cons hx, List.append_assoc]

/-- Only a POP delivers (R96). -/
theorem deliveredBy_of_ne_pop {i : Instr} {s t : State} (hx : exec i s = .next t) (hi : i ≠ .pop) :
    deliveredBy t.response = [] := by
  rcases exec_next_cases hx with ⟨-, rfl⟩ | ⟨v, -, rfl⟩ | ⟨-, -, rfl⟩ | ⟨-, -, -, rfl⟩ | ⟨-, -, -, -, rfl⟩ |
    ⟨-, -, rfl⟩ | ⟨hpop, -, -, -⟩ | ⟨hpop, -, -, -, -⟩ | ⟨-, -, rfl⟩ | ⟨-, -, -, rfl⟩ | ⟨v, -, -, rfl⟩
  · rfl
  · rfl
  · rfl
  · rfl
  · rfl
  · rfl
  · exact absurd hpop hi
  · exact absurd hpop hi
  · rfl
  · rfl
  · rfl

theorem deliveredIn_of_pop_notMem {ops : List Instr} {s t : State} (hrun : runOps ops s = .next t)
    (hpop : .pop ∉ ops) : deliveredIn ops s = [] := by
  induction ops generalizing s with
  | nil => rfl
  | cons i ops ih =>
    obtain ⟨u, hx, hrest⟩ := runOps_cons_next hrun
    obtain ⟨hne, hpop⟩ := not_or.1 (mt List.mem_cons.2 hpop)
    rw [deliveredIn_cons hx, deliveredBy_of_ne_pop hx (Ne.symm hne), ih hrest hpop, List.append_nil]

@[simp] theorem length_queue (s : State) : (queue s).length = occupancy s := by
  simp [queue]

/-- Within the mask, the queue has no event iff `HEAD = TAIL` (R43). -/
theorem queue_eq_nil_iff (s : State) (hh : s.head.toNat < capacity s.config)
    (ht : s.tail.toNat < capacity s.config) : queue s = [] ↔ s.head = s.tail := by
  rw [← List.length_eq_zero_iff, length_queue, occupancy_eq_zero s hh ht]

/-- Settles O31: a run without a POP delivers nothing, so by `deliveryIsFifo` what was queued at its start is still
queued at its end. -/
theorem availableStaysUntilPop : Obligations.AvailableStaysUntilPop := by
  intro ops s t h hi hne hpop hrun
  obtain ⟨hhead, htail⟩ := h.indices hi
  obtain ⟨hhead', htail'⟩ := (runOps_keeps_inv h hrun).indices (runOps_keeps_inited hi hrun)
  have hqueue : queue s ++ enqueuedIn ops s = queue t := by
    rw [deliveryIsFifo ops s t h hi hrun, deliveredIn_of_pop_notMem hrun hpop, List.nil_append]
  have hstart : queue s ≠ [] := mt (queue_eq_nil_iff s hhead htail).1 hne
  refine mt (queue_eq_nil_iff t hhead' htail').2 ?_
  rw [← hqueue]
  exact List.append_ne_nil_of_left_ne_nil hstart _

end Sys2Proof.Machine
end

section
/-! PROOFS. `ENQ` and POP as list operations: `ENQ` with room adds its event at the end, and POPs drain the queue in
order (spec/20_memory.md R76; spec/30_encoding.md R101; spec/41_capture_source.md R143). -/

namespace Sys2Proof.Machine

/-- What `ENQ` and POP need of a state: INIT has run and both indices name slots. -/
structure QueueReady (s : State) : Prop where
  inited : s.inited = true
  head_lt : s.head.toNat < capacity s.config
  tail_lt : s.tail.toNat < capacity s.config

theorem Inv.queueReady {s : State} (h : Inv s) (hi : s.inited = true) : QueueReady s := by
  obtain ⟨hhead, htail⟩ := h.indices hi
  exact ⟨hi, hhead, htail⟩

theorem advance_lt (c : Config) (x : Index) : (advance c x).toNat < capacity c :=
  (le_mask_iff _ _).1 (advance_le_mask c x)

theorem enqEvent_of_full {s : State} (ev : CaptureEvent) (hf : isFull s = true) :
    enqEvent ev s = { s with dropped := s.dropped + 1#16 } := by
  simp [enqEvent, enqueue_full ev hf]

theorem enqEvent_of_room {s : State} (ev : CaptureEvent) (hh : s.head.toNat < capacity s.config)
    (hf : isFull s = false) :
    enqEvent ev s =
      { s with buf := Memory.write s.buf s.head.toNat ev, head := advance s.config s.head } := by
  simp [enqEvent, enqueue_room ev hf ((slotExists_iff _ _).2 hh)]

theorem queueReady_enqEvent {s : State} (h : QueueReady s) (ev : CaptureEvent) : QueueReady (enqEvent ev s) := by
  cases hf : isFull s with
  | true =>
    rw [enqEvent_of_full ev hf]
    exact ⟨h.inited, h.head_lt, h.tail_lt⟩
  | false =>
    rw [enqEvent_of_room ev h.head_lt hf]
    exact ⟨h.inited, advance_lt _ _, h.tail_lt⟩

theorem enqEvent_config {s : State} (h : QueueReady s) (ev : CaptureEvent) : (enqEvent ev s).config = s.config := by
  cases hf : isFull s with
  | true => rw [enqEvent_of_full ev hf]
  | false => rw [enqEvent_of_room ev h.head_lt hf]

theorem queue_enqEvent_of_room {s : State} (h : QueueReady s) (ev : CaptureEvent) (hf : isFull s = false) :
    queue (enqEvent ev s) = queue s ++ [ev] := by
  rw [enqEvent_of_room ev h.head_lt hf]
  exact queue_enqueue ev h.head_lt h.tail_lt hf rfl rfl rfl rfl

theorem queueReady_enqAll {s : State} (h : QueueReady s) (evs : List CaptureEvent) : QueueReady (enqAll evs s) := by
  induction evs generalizing s with
  | nil => exact h
  | cons ev evs ih => exact ih (queueReady_enqEvent h ev)

/-- As long as there is room, `ENQ`s add their events at the end, in order. -/
theorem queue_enqAll_of_room {s : State} (h : QueueReady s) (evs : List CaptureEvent)
    (hroom : (queue s).length + evs.length < capacity s.config) : queue (enqAll evs s) = queue s ++ evs := by
  induction evs generalizing s with
  | nil => simp [enqAll]
  | cons ev evs ih =>
    rw [length_queue, List.length_cons] at hroom
    have hf : isFull s = false := by
      rw [Bool.eq_false_iff, ne_eq, isFull_iff s h.head_lt h.tail_lt]
      omega
    have hqueue := queue_enqEvent_of_room h ev hf
    have hroom' : (queue (enqEvent ev s)).length + evs.length < capacity (enqEvent ev s).config := by
      rw [hqueue, enqEvent_config h, List.length_append, length_queue, List.length_singleton]
      omega
    calc queue (enqAll evs (enqEvent ev s))
        = queue (enqEvent ev s) ++ evs := ih (queueReady_enqEvent h ev) hroom'
      _ = queue s ++ ev :: evs := by rw [hqueue, List.append_assoc, List.singleton_append]

theorem queueReady_popTakeState {s : State} (h : QueueReady s) : QueueReady (popTakeState s) :=
  ⟨h.inited, h.head_lt, advance_lt _ _⟩

/-- A POP of a queue with an event takes the first one and delivers it (R171). -/
theorem exec_pop_of_queue_eq_cons {s : State} (h : QueueReady s) {ev : CaptureEvent} {q : List CaptureEvent}
    (hq : queue s = ev :: q) :
    exec .pop s = .next (popTakeState s) ∧ deliveredBy (popTakeState s).response = [ev] ∧
      queue (popTakeState s) = q := by
  have he : isEmpty s = false := by
    rw [isEmpty_eq_false_iff, ne_eq, ← queue_eq_nil_iff s h.head_lt h.tail_lt, hq]
    exact List.cons_ne_nil ev q
  have htake : queue s = slotValue s.tail s :: queue (popTakeState s) :=
    queue_dequeue h.head_lt h.tail_lt he rfl rfl rfl rfl
  obtain ⟨rfl, rfl⟩ := List.cons.inj (hq.symm.trans htake)
  refine ⟨?_, deliveredBy_popWord _, rfl⟩
  simp [exec_pop_eq, h.inited, he, (slotExists_iff _ _).2 h.tail_lt]

/-- As many POPs as there are events queued are all Done, deliver the queue in order and leave it empty. -/
theorem pops_drain_queue (q : List CaptureEvent) {s : State} (h : QueueReady s) (hq : queue s = q) :
    (∃ t, runOps (List.replicate q.length .pop) s = .next t ∧ t.head = t.tail) ∧
      deliveredIn (List.replicate q.length .pop) s = q := by
  induction q generalizing s with
  | nil => exact ⟨⟨s, rfl, (queue_eq_nil_iff s h.head_lt h.tail_lt).1 hq⟩, rfl⟩
  | cons ev q ih =>
    obtain ⟨hx, htaken, hleft⟩ := exec_pop_of_queue_eq_cons h hq
    obtain ⟨⟨t, hrun, hempty⟩, hdelivered⟩ := ih (queueReady_popTakeState h) hleft
    rw [List.length_cons, List.replicate_succ]
    refine ⟨⟨t, ?_, hempty⟩, ?_⟩
    · rw [runOps, hx]
      exact hrun
    · rw [deliveredIn_cons hx, htaken, hdelivered, List.singleton_append]

/-- Settles O49: from an empty queue the `ENQ`s make the queue the sequence itself, and the POPs drain it. -/
theorem enqueuesThenPopsGiveTheSequence : Obligations.EnqueuesThenPopsGiveTheSequence := by
  intro evs s hinv hi hempty hlen
  have h : QueueReady s := hinv.queueReady hi
  have hnil : queue s = [] := (queue_eq_nil_iff s h.head_lt h.tail_lt).2 hempty
  have hroom : (queue s).length + evs.length < capacity s.config := by
    have := capacity_pos s.config
    rw [hnil, List.length_nil]
    omega
  have hqueue : queue (enqAll evs s) = evs := by
    rw [queue_enqAll_of_room h evs hroom, hnil, List.nil_append]
  exact pops_drain_queue evs (queueReady_enqAll h evs) hqueue

end Sys2Proof.Machine
end

section
/-! PROOFS. The words of the operations: a byte is its three fields, the decoder undoes the encoder and nothing else, so
the words it accepts are the encoder's; and what a step does with a word that is queued (spec/30_encoding.md R91 to R95,
R99; assumptions 1 and 16). -/

namespace Sys2Proof.Machine

/-- A word is its fields `grp ‖ fn ‖ v` (R91). -/
theorem opWord_fields (w : Byte) : opWord (wordGrp w) (wordFn w) (wordV w) = w := by
  have upper : wordGrp w ++ wordFn w = w.extractLsb' 1 7 := BitVec.extractLsb'_append_extractLsb'_eq_extractLsb' rfl
  rw [opWord, upper, BitVec.append_ofBool]
  exact BitVec.concat_extractLsb'_getLsb

theorem opWord_eq_of_fields {w : Byte} {grp : BitVec 4} {fn : BitVec 3} {v : Bool}
    (hgrp : (wordGrp w).toNat = grp.toNat) (hfn : (wordFn w).toNat = fn.toNat) (hv : wordV w = v) :
    opWord grp fn v = w := by
  rw [← BitVec.eq_of_toNat_eq hgrp, ← BitVec.eq_of_toNat_eq hfn, ← hv, opWord_fields]

theorem decode_encode (i : Instr) : decode (encode i) = .ok i := by
  cases i with
  | tick | ovf | cap | avail | pop | dropped | init => rfl
  | pin v | gie v => cases v <;> rfl

/-- Each arm of the decoder names the three fields of its word, and the encoder puts the same three together. -/
theorem encode_of_decode {w : Byte} {i : Instr} (h : decode w = .ok i) : encode i = w := by
  unfold decode at h
  split at h
  case h_10 => cases h
  case h_2 hgrp hfn | h_9 hgrp hfn => cases h; exact opWord_eq_of_fields hgrp hfn rfl
  all_goals cases h; exact opWord_eq_of_fields ‹_› ‹_› ‹_›

/-- Settles O2: one direction is `encode_of_decode`, the other `decode_encode`. -/
theorem decodeEncodeAgree : Obligations.DecodeEncodeAgree := by
  intro w i
  refine ⟨encode_of_decode, ?_⟩
  rintro rfl
  exact decode_encode i

theorem decode_eq_reservedOp_iff (w : Byte) : decode w = .error .reservedOp ↔ ∀ i, encode i ≠ w := by
  cases hw : decode w with
  | ok i => simpa using ⟨i, encode_of_decode hw⟩
  | error e =>
    refine ⟨fun _ i hi => ?_, fun _ => rfl⟩
    rw [← hi, decode_encode] at hw
    cases hw

/-- Settles O1: the eleven words are the encoder's, and a word that is none of them is no operation's. -/
theorem decodingOfThe256Words : Obligations.DecodingOfThe256Words := by
  refine ⟨⟨decode_encode .tick, decode_encode (.pin false), decode_encode (.pin true), decode_encode .ovf,
    decode_encode .cap, decode_encode .avail, decode_encode .pop, decode_encode .dropped, decode_encode .init,
    decode_encode (.gie false), decode_encode (.gie true)⟩, fun w hw => ?_⟩
  rw [decode_eq_reservedOp_iff]
  rintro i rfl
  refine hw ?_
  cases i with
  | tick | ovf | cap | avail | pop | dropped | init => decide
  | pin v | gie v => cases v <;> decide

theorem wordLegal_encode (i : Instr) : wordLegal (encode i) = true := by
  cases i with
  | tick | ovf | cap | avail | pop | dropped | init => rfl
  | pin v | gie v => cases v <;> rfl

/-- R95's clauses as propositions about the three fields. -/
theorem wordLegal_iff (w : Byte) : wordLegal w = true ↔
    ¬ ((wordGrp w).toNat = 0 ∨ 5 ≤ (wordGrp w).toNat) ∧
    ¬ (((wordGrp w).toNat = 1 ∨ (wordGrp w).toNat = 2 ∨ (wordGrp w).toNat = 4) ∧ 2 ≤ (wordFn w).toNat) ∧
    ¬ ((wordGrp w).toNat = 3 ∧ 3 ≤ (wordFn w).toNat) ∧
    (((wordGrp w).toNat = 1 ∧ (wordFn w).toNat = 1 ∨ (wordGrp w).toNat = 4 ∧ (wordFn w).toNat = 1) ∨
      ¬ wordV w = true) := by
  simp only [wordLegal, Bool.and_eq_true, Bool.or_eq_true, Bool.not_eq_true', ← Bool.not_eq_true, beq_iff_eq,
    decide_eq_true_eq, and_assoc, or_assoc]
  rfl

/-- What R95's clauses leave is what the decoder's arms list: a word of the decoder's last arm has no legal fields. -/
theorem exists_decode_of_wordLegal {w : Byte} (h : wordLegal w = true) : ∃ i, decode w = .ok i := by
  obtain ⟨hgrp, hfn, hfn3, hv⟩ := (wordLegal_iff w).1 h
  unfold decode
  split
  case h_10 =>
    exfalso
    grind
  all_goals exact ⟨_, rfl⟩

theorem decode_eq_reservedOp_iff_wordLegal (w : Byte) : decode w = .error .reservedOp ↔ wordLegal w = false := by
  cases hw : decode w with
  | ok i => simp [← encode_of_decode hw, wordLegal_encode]
  | error e =>
    refine ⟨fun _ => Bool.eq_false_iff.2 fun hl => ?_, fun _ => rfl⟩
    obtain ⟨i, hi⟩ := exists_decode_of_wordLegal hl
    simp [hw] at hi

/-- Settles O3: legal are exactly the operations' words, and the step refuses what does not decode. -/
theorem reservedWordsAreRefused : Obligations.ReservedWordsAreRefused := by
  refine ⟨decode_eq_reservedOp_iff_wordLegal, fun s w rest hs hw => ?_⟩
  exact step_of_reserved hs ((decode_eq_reservedOp_iff_wordLegal w).2 hw)

theorem decode_of_decodeTableWord {nbits w : Nat} {i : Instr} (h : decodeTableWord nbits w = some i) :
    decode (tableWord nbits w) = .ok i := by
  unfold decodeTableWord at h
  split at h
  next hw => rw [hw, Option.some.inj h]
  next => cases h

/-- Settles O10: the word queued in front is the oldest one. -/
theorem queuedTableWordRunsNext : Obligations.QueuedTableWordRunsNext :=
  fun s _ _ _ h => step_of_queued (queueWord_schedule _ s) (decode_of_decodeTableWord h)

end Sys2Proof.Machine
end

section
/-! PROOFS. The decoder and spec/opcode_table.json: a word that hits a row is an operation's word, an operation's word
hits the row of its mnemonic, and no two rows share a mnemonic (spec/30_encoding.md R93). -/

namespace Sys2Proof.Machine

theorem tableRow (i : Instr) : Laws.TableRow.Statement i := by
  cases i with
  | tick => exact Laws.TableRow.tick
  | pin v => exact Laws.TableRow.pin v
  | ovf => exact Laws.TableRow.ovf
  | cap => exact Laws.TableRow.cap
  | avail => exact Laws.TableRow.avail
  | pop => exact Laws.TableRow.pop
  | dropped => exact Laws.TableRow.dropped
  | init => exact Laws.TableRow.init
  | gie v => exact Laws.TableRow.gie v

theorem hits_encode_iff {r : OpcodeRow} (hr : r ∈ opcodeTable) (i : Instr) :
    r.hits (encode i) = true ↔ r.mnemonic = mnemonicOf i := (tableRow i).1 r hr

/-- Format N: the mask 0xFF keeps every bit. -/
theorem eq_of_hits_formatN {name : String} {m w : Byte} (h : OpcodeRow.hits ⟨name, false, m, 0xFF⟩ w = true) :
    m = w := by
  have hand : w &&& 0xFF#8 = m := eq_of_beq h
  rw [← hand]
  exact BitVec.and_allOnes

/-- Format V: the mask 0xFE leaves out `v` and nothing else. -/
theorem eq_of_hits_formatV {name : String} {grp : BitVec 4} {fn : BitVec 3} {w : Byte}
    (h : OpcodeRow.hits ⟨name, true, opWord grp fn false, 0xFE⟩ w = true) : opWord grp fn (wordV w) = w := by
  have hand : w &&& opWord 15#4 7#3 false = opWord grp fn false := eq_of_beq h
  have hgrp : wordGrp w &&& 15#4 = wordGrp w := BitVec.and_allOnes
  have hfn : wordFn w &&& 7#3 = wordFn w := BitVec.and_allOnes
  rw [← opWord_fields w, opWord, opWord, opWord, BitVec.and_append, BitVec.and_append, hgrp, hfn,
    BitVec.ofBool_and_ofBool, Bool.and_false, BitVec.append_left_inj] at hand
  rw [opWord, ← hand]
  exact opWord_fields w

theorem exists_encode_of_hits {r : OpcodeRow} {w : Byte} (hr : r ∈ opcodeTable) (h : r.hits w = true) :
    ∃ i, encode i = w := by
  simp only [opcodeTable, List.mem_cons, List.not_mem_nil, or_false] at hr
  rcases hr with rfl | rfl | rfl | rfl | rfl | rfl | rfl | rfl | rfl
  · exact ⟨.tick, eq_of_hits_formatN h⟩
  · exact ⟨.pin (wordV w), eq_of_hits_formatV h⟩
  · exact ⟨.ovf, eq_of_hits_formatN h⟩
  · exact ⟨.cap, eq_of_hits_formatN h⟩
  · exact ⟨.avail, eq_of_hits_formatN h⟩
  · exact ⟨.pop, eq_of_hits_formatN h⟩
  · exact ⟨.dropped, eq_of_hits_formatN h⟩
  · exact ⟨.init, eq_of_hits_formatN h⟩
  · exact ⟨.gie (wordV w), eq_of_hits_formatV h⟩

/-- The rows' mnemonics are all different. -/
theorem length_filter_mnemonic_le_one (m : String) :
    (opcodeTable.filter fun r => r.mnemonic == m).length ≤ 1 := by
  have nodup : (opcodeTable.map OpcodeRow.mnemonic).Nodup := by decide
  rw [← List.countP_eq_length_filter]
  exact (List.countP_map (p := (· == m))).symm.trans_le (List.nodup_iff_count_le_one.1 nodup m)

theorem filter_hits_encode (i : Instr) :
    opcodeTable.filter (fun r => r.hits (encode i)) = opcodeTable.filter fun r => r.mnemonic == mnemonicOf i := by
  refine List.filter_congr fun r hr => ?_
  rw [Bool.eq_iff_iff, hits_encode_iff hr, beq_iff_eq]

/-- Settles O4: a word that hits a row is an operation's, and an operation's word hits the row of its mnemonic alone. -/
theorem decoderIsTheOpcodeTable : Obligations.DecoderIsTheOpcodeTable := by
  refine ⟨fun w r hr => ⟨fun h => ?_, ?_⟩, fun w => ?_⟩
  · obtain ⟨i, rfl⟩ := exists_encode_of_hits hr h
    exact ⟨i, decode_encode i, ((hits_encode_iff hr i).1 h).symm⟩
  · rintro ⟨i, hi, hm⟩
    rw [← encode_of_decode hi]
    exact (hits_encode_iff hr i).2 hm.symm
  · by_cases hw : ∃ i, encode i = w
    · obtain ⟨i, rfl⟩ := hw
      rw [filter_hits_encode]
      exact length_filter_mnemonic_le_one _
    · have none_hit : opcodeTable.filter (fun r => r.hits w) = [] :=
        List.filter_eq_nil_iff.2 fun r hr h => hw (exists_encode_of_hits hr h)
      simp [none_hit]

end Sys2Proof.Machine
end

section
/-! PROOFS. The encodings of an event: its 33-bit value, its five-byte image and the POP response, each field in its
place and nothing lost (spec/30_encoding.md R96 to R98). -/

namespace Sys2Proof.Machine

theorem eventWord_ticks (ev : CaptureEvent) : (eventWord ev).extractLsb' 0 32 = ev.ticks :=
  BitVec.extractLsb'_append_eq_right

theorem eventWord_edge (ev : CaptureEvent) : (eventWord ev).getLsbD 32 = decide (ev.edge = .rising) := by
  rw [eventWord_bit, ← edgeBit_eq_decide]
  simp

theorem edgeBit_edgeOfBit (b : Bool) : edgeBit (edgeOfBit b) = b := by
  cases b <;> rfl

theorem eventWord_eventOfWord (w : BitVec 33) : eventWord (eventOfWord w) = w := by
  refine BitVec.eq_of_getLsbD_eq fun n hn => ?_
  rw [eventWord_bit]
  by_cases h : n < 32
  · simp [eventOfWord, h]
  · obtain rfl : n = 32 := by omega
    simp [eventOfWord, edgeBit_edgeOfBit]

theorem map_toNat_eventImage (ev : CaptureEvent) :
    (eventImage ev).map BitVec.toNat =
      [ev.ticks.toNat % 256, ev.ticks.toNat / 256 % 256, ev.ticks.toNat / 65536 % 256,
       ev.ticks.toNat / 16777216, (decide (ev.edge = .rising)).toNat] := by
  have hlt := ev.ticks.isLt
  have top : ev.ticks.toNat / 16777216 % 256 = ev.ticks.toNat / 16777216 := Nat.mod_eq_of_lt (by omega)
  have edge (b : Bool) : ((BitVec.ofBool b).setWidth 8).toNat = b.toNat := by cases b <;> rfl
  simp [eventImage, Nat.shiftRight_eq_div_pow, top, edge, edgeBit_eq_decide]

/-- Settles O5: the two fields of the 33-bit value, both round trips, and the image byte by byte. -/
theorem eventEncodingLosesNothing : Obligations.EventEncodingLosesNothing :=
  ⟨fun ev => ⟨eventWord_edge ev, eventWord_ticks ev, eventOfWord_eventWord ev, map_toNat_eventImage ev⟩,
    eventWord_eventOfWord⟩

/-- Settles O6: below `valid` stands the event's 33-bit value. -/
theorem popResponseLosesNothing : Obligations.PopResponseLosesNothing := by
  refine ⟨rfl, fun ev => ⟨?_, ?_, ?_⟩, popEvent_popWord⟩
  · rw [popWord_bit]
    rfl
  · rw [popWord_bit]
    exact eventWord_edge ev
  · exact (BitVec.extractLsb'_append_eq_of_add_le (by decide)).trans (eventWord_ticks ev)

end Sys2Proof.Machine
end

section
/-! PROOFS. `TICKS n`: `n` ticks add `n` to the counter modulo `2^16` and record a wrap
(spec/30_encoding.md R101, spec/40_counter_and_edge_detector.md R120). -/

namespace Sys2Proof.Machine

/-- TICK while `RUN = 1`: the counter is advanced modulo `2^16`, and the flag records the carry (R120). -/
theorem countTick_of_run {s : State} (h : s.run = true) :
    countTick s =
      { s with cnt := s.cnt + 1#16, ovfPend := s.ovfPend || decide (65536 ≤ s.cnt.toNat + 1) } := by
  rcases countTick_cases s with ⟨-, hc, heq⟩ | ⟨-, hc, heq⟩ | ⟨hr, -⟩
  · simp [heq, hc]
  · have no_carry : ¬ 65536 ≤ s.cnt.toNat + 1 := by
      have hne : s.cnt.toNat ≠ 65535 := fun h => hc (BitVec.eq_of_toNat_eq h)
      have hlt := s.cnt.isLt
      omega
    simp only [heq, no_carry, decide_false, Bool.or_false]
  · simp [h] at hr

/-- One tick and then `n` more wrap the counter exactly if `n + 1` ticks do. -/
theorem carry_tick_then_ticks (c : Count) (n : Nat) :
    (decide (65536 ≤ c.toNat + 1) || decide (65536 ≤ (c + 1#16).toNat + n)) =
      decide (65536 ≤ c.toNat + (n + 1)) := by
  have hlt := c.isLt
  rw [← Bool.decide_or, decide_eq_decide, BitVec.toNat_add, BitVec.toNat_ofNat]
  omega

/-- Settles O15, by induction on `n`: the first tick, and `n` more from the state it leaves. -/
theorem ticksAdvanceTheCounter : Obligations.TicksAdvanceTheCounter := by
  intro n
  induction n with
  | zero =>
    intro s _
    have no_wrap : ¬ 65536 ≤ s.cnt.toNat + 0 := Nat.not_le.2 s.cnt.isLt
    refine ⟨s.response, ?_⟩
    simp only [no_wrap, decide_false, Bool.or_false, BitVec.add_zero]
    rfl
  | succ n ih =>
    intro s hrun
    obtain ⟨r, rest⟩ := ih (respond .nothing (countTick s)) hrun
    have first : runOps (ticksOps (n + 1)) s = runOps (ticksOps n) (respond .nothing (countTick s)) := rfl
    have hcnt : s.cnt + 1#16 + BitVec.ofNat 16 n = s.cnt + BitVec.ofNat 16 (n + 1) := by
      rw [BitVec.add_assoc, BitVec.add_comm 1#16, BitVec.ofNat_add]
    refine ⟨r, ?_⟩
    rw [← hcnt, ← carry_tick_then_ticks, ← Bool.or_assoc, first, rest, countTick_of_run hrun]
    rfl

end Sys2Proof.Machine
end

section
/-! PROOFS. `PIN v` case by case: no transition, an armed edge that the latch takes or holds off, and an edge of the other
direction (spec/40_counter_and_edge_detector.md R121). -/

namespace Sys2Proof.Machine

theorem latchOpen_iff (s : State) :
    latchOpen s = true ↔ s.capPend = false ∨ s.config.recapture = .overwrite := by
  simp [latchOpen]

theorem detectEdge_of_no_transition {v : Bool} {s : State} (h : v = s.pin) : detectEdge v s = s := by
  rcases detectEdge_cases v s with ⟨-, heq⟩ | ⟨hne, -⟩ | ⟨hne, -⟩
  · exact heq
  · exact absurd h hne
  · exact absurd h hne

theorem detectEdge_of_armed {v : Bool} {s : State} (hv : v ≠ s.pin) (he : s.edgeSel = edgeOfBit v) :
    detectEdge v s = { s with pin := v, icr := if latchOpen s then s.cnt else s.icr, capPend := true } := by
  rcases detectEdge_cases v s with ⟨h, -⟩ | ⟨-, -, heq⟩ | ⟨-, hne, -⟩
  · exact absurd h hv
  · exact heq
  · exact absurd he.symm hne

theorem detectEdge_of_other_edge {v : Bool} {s : State} (hv : v ≠ s.pin) (he : s.edgeSel ≠ edgeOfBit v) :
    detectEdge v s = { s with pin := v } := by
  rcases detectEdge_cases v s with ⟨h, -⟩ | ⟨-, heq, -⟩ | ⟨-, -, heq⟩
  · exact absurd h hv
  · exact absurd heq.symm he
  · exact heq

/-- An armed edge that the latch takes. -/
theorem detectEdge_of_latch {v : Bool} {s : State} (hv : v ≠ s.pin) (he : s.edgeSel = edgeOfBit v)
    (hl : latchOpen s = true) : detectEdge v s = { s with pin := v, icr := s.cnt, capPend := true } := by
  rw [detectEdge_of_armed hv he, if_pos hl]

/-- Under `Hold` an armed edge leaves a pending capture as it is: the flag it sets is set already. -/
theorem detectEdge_of_hold {v : Bool} {s : State} (hv : v ≠ s.pin) (he : s.edgeSel = edgeOfBit v)
    (hp : s.capPend = true) (hr : s.config.recapture = .hold) : detectEdge v s = { s with pin := v } := by
  have closed : ¬ latchOpen s = true := by simp [latchOpen_iff, hp, hr]
  rw [detectEdge_of_armed hv he, if_neg closed, ← hp]

/-- Settles O16: the polarity of an edge to level `v` is `edgeOfBit v`, and each clause is one case of `detectEdge`. -/
theorem pinLatchesTheArmedEdge : Obligations.PinLatchesTheArmedEdge := by
  refine ⟨decode_encode (.pin false), decode_encode (.pin true), fun v s => ?_⟩
  rw [exec_pin_eq]
  refine ⟨fun hv => ?_, fun hv he hl => ?_, fun hv he hp hr => ?_, fun hv he => ?_⟩
  · rw [detectEdge_of_no_transition hv]
    rfl
  · rw [detectEdge_of_latch hv he ((latchOpen_iff s).2 hl)]
    rfl
  · rw [detectEdge_of_hold hv he hp hr]
    rfl
  · rw [detectEdge_of_other_edge hv he]
    rfl

end Sys2Proof.Machine
end

section
/-! PROOFS. TICK case by case: the wrap, a count below it, and the counter standing still
(spec/40_counter_and_edge_detector.md R120). -/

namespace Sys2Proof.Machine

/-- Settles O14: each clause is one case of `countTick_cases`, and the other two cannot hold with it. -/
theorem tickCountsAndFlagsTheWrap : Obligations.TickCountsAndFlagsTheWrap := by
  refine ⟨decode_encode .tick, fun s => ?_⟩
  rw [exec_tick_eq]
  rcases countTick_cases s with ⟨hrun, hcnt, heq⟩ | ⟨hrun, hcnt, heq⟩ | ⟨hstop, heq⟩
  · simp [heq, hrun, hcnt, respond]
  · simp [heq, hrun, hcnt, respond]
  · simp [heq, hstop, respond]

end Sys2Proof.Machine
end

section
/-! PROOFS. The boundary guard case by case, and the two halves of the absolute tick
(spec/41_capture_source.md R141, R142). -/

namespace Sys2Proof.Machine

@[simp] theorem adjust_false (l h : Count) : adjust false l h = h := by simp [adjust]

theorem lt_guardMidpoint_iff (l : Count) : l < guardMidpoint ↔ l.toNat < 0x8000 := Iff.rfl

/-- A pending wrap counts as before the latch where the latched value is in the low half. -/
theorem adjust_true_of_lt {l : Count} (h : Count) (hl : l.toNat < 0x8000) : adjust true l h = h + 1#16 :=
  if_pos ⟨rfl, (lt_guardMidpoint_iff l).2 hl⟩

/-- The midpoint itself is in the high half. -/
theorem adjust_true_of_ge {l : Count} (h : Count) (hl : 0x8000 ≤ l.toNat) : adjust true l h = h :=
  if_neg fun ⟨_, hlt⟩ => Nat.not_lt.2 hl ((lt_guardMidpoint_iff l).1 hlt)

/-- Settles O18: no wrap pending, and one pending with the latched value in the low and in the high half. -/
theorem boundaryGuardCases : Obligations.BoundaryGuardCases := by
  refine fun l h => ⟨adjust_false l h, fun hl => ?_, adjust_true_of_ge h⟩
  rw [adjust_true_of_lt h hl]
  exact BitVec.toNat_add h 1#16

theorem abstick_toNat (a l : Count) : (abstick a l).toNat = a.toNat * 65536 + l.toNat := by
  rw [abstick_eq_append, BitVec.toNat_append, ← Nat.shiftLeft_add_eq_or_of_lt l.isLt, Nat.shiftLeft_eq]

/-- Settles O19: the absolute tick is `a ++ l`. -/
theorem absoluteTickHalves : Obligations.AbsoluteTickHalves := by
  intro a l
  refine ⟨abstick_toNat a l, ?_, ?_⟩
  · rw [abstick_eq_append]
    exact BitVec.extractLsb'_append_eq_left
  · rw [abstick_eq_append]
    exact BitVec.extractLsb'_append_eq_right

/-- One more in the upper half is `2^16` more ticks, modulo `2^32`. -/
theorem abstick_add_one (a l : Count) : abstick (a + 1#16) l = abstick a l + 0x00010000#32 := by
  have hl := l.isLt
  apply BitVec.eq_of_toNat_eq
  rw [BitVec.toNat_add, abstick_toNat, abstick_toNat, BitVec.toNat_add, BitVec.toNat_ofNat, BitVec.toNat_ofNat]
  omega

end Sys2Proof.Machine
end

section
/-! PROOFS. The two services case by case: OVF, CAP with room, CAP with a full queue, and a dispatch condition that is
false (spec/41_capture_source.md R143 to R145, spec/60_exceptions.md R208). -/

namespace Sys2Proof.Machine

/-- The state OVF leaves (R144). -/
def ovfState (s : State) : State :=
  respond .nothing { s with ovfPend := false, ovh := s.ovh + 1#16 }

theorem exec_ovf_of_enabled {s : State} (h : ovfEnabled s = true) : exec .ovf s = .next (ovfState s) := by
  rw [exec_ovf_eq, if_pos h]
  rfl

theorem exec_ovf_of_not_enabled {s : State} (h : ¬ ovfEnabled s = true) : exec .ovf s = .refused .notEnabled := by
  rw [exec_ovf_eq, if_neg h]

theorem exec_cap_of_full {s : State} (h : capEnabled s = true) (hf : isFull s = true) :
    exec .cap s = .next (capDropState s) := by
  rw [exec_cap_eq, if_pos h, if_pos hf]

theorem exec_cap_of_room {s : State} (h : capEnabled s = true) (hf : isFull s = false)
    (hhead : slotExists s.config s.head = true) : exec .cap s = .next (capEnqueueState s) := by
  rw [exec_cap_eq, if_pos h, if_neg (Bool.eq_false_iff.1 hf), if_pos hhead]

theorem exec_cap_of_not_enabled {s : State} (h : ¬ capEnabled s = true) : exec .cap s = .refused .notEnabled := by
  rw [exec_cap_eq, if_neg h]

/-- The complement of the polarity, as R145 (f) writes it. -/
theorem oppositeEdge_eq_ite (e : Edge) : oppositeEdge e = if e = .rising then .falling else .rising := by
  cases e <;> rfl

/-- Settles O20: `ovfEnabled` is the dispatch condition. -/
theorem ovfCountsOneWrap : Obligations.OvfCountsOneWrap := by
  refine ⟨decode_encode .ovf, fun s => ?_⟩
  rw [← ovfEnabled_iff]
  exact ⟨exec_ovf_of_enabled, exec_ovf_of_not_enabled⟩

/-- Settles O21: `capEnabled` is the dispatch condition, and the test of the indices is whether the queue is full. -/
theorem capEnqueuesOrCountsTheDrop : Obligations.CapEnqueuesOrCountsTheDrop := by
  refine ⟨decode_encode .cap, fun s => ?_⟩
  rw [← capEnabled_iff, ← captureEvent_eq, ← oppositeEdge_eq_ite]
  refine ⟨fun h hroom hhead => ?_, fun h hfull => ?_, exec_cap_of_not_enabled⟩
  · exact exec_cap_of_room h ((isFull_eq_false_iff s).2 hroom) (decide_eq_true hhead)
  · exact exec_cap_of_full h ((isFull_eq_true_iff s).2 hfull)

end Sys2Proof.Machine
end

section
/-! PROOFS. Both orders of service (spec/41_capture_source.md R146, spec/60_exceptions.md R207): OVF and CAP touch
different registers, so the order shows in the composed event only, and there through the boundary guard. -/

namespace Sys2Proof.Machine

/-- The state CAP leaves, with room or without. -/
def capState (s : State) : State := if isFull s then capDropState s else capEnqueueState s

theorem capState_of_full {s : State} (h : isFull s = true) : capState s = capDropState s := if_pos h

theorem capState_of_room {s : State} (h : isFull s = false) : capState s = capEnqueueState s :=
  if_neg (Bool.eq_false_iff.1 h)

/-- In a state of the invariant, CAP with its dispatch condition is Done. -/
theorem exec_cap_of_enabled {s : State} (hinv : Inv s) (h : capEnabled s = true) :
    exec .cap s = .next (capState s) := by
  obtain ⟨hi, -, -, -⟩ := (capEnabled_iff s).1 h
  cases hf : isFull s with
  | true => rw [capState_of_full hf, exec_cap_of_full h hf]
  | false => rw [capState_of_room hf, exec_cap_of_room h hf (decide_eq_true (hinv.headInMask hi))]

/-- CAP leaves the overflow interrupt as it was. -/
theorem ovfEnabled_capState (s : State) : ovfEnabled (capState s) = ovfEnabled s := by
  cases hf : isFull s with
  | true => rw [capState_of_full hf]; rfl
  | false => rw [capState_of_room hf]; rfl

theorem runOps_cons_of_next {i : Instr} {s u : State} (hx : exec i s = .next u) (ops : List Instr) :
    runOps (i :: ops) s = runOps ops u := by
  simp only [runOps, hx]

theorem runOps_ovf_cap {s : State} (h : Inv s) (hovf : ovfEnabled s = true) (hcap : capEnabled s = true) :
    runOps [.ovf, .cap] s = .next (capState (ovfState s)) := by
  have hinv : Inv (ovfState s) := exec_keeps_inv h (exec_ovf_of_enabled hovf)
  have hcap' : capEnabled (ovfState s) = true := hcap
  rw [runOps_cons_of_next (exec_ovf_of_enabled hovf), runOps_cons_of_next (exec_cap_of_enabled hinv hcap'), runOps]

theorem runOps_cap_ovf {s : State} (h : Inv s) (hovf : ovfEnabled s = true) (hcap : capEnabled s = true) :
    runOps [.cap, .ovf] s = .next (ovfState (capState s)) := by
  have hovf' : ovfEnabled (capState s) = true := (ovfEnabled_capState s).trans hovf
  rw [runOps_cons_of_next (exec_cap_of_enabled h hcap), runOps_cons_of_next (exec_ovf_of_enabled hovf'), runOps]

/-- The services commute where both orders compose the same event. -/
theorem capState_ovfState {s : State} (h : captureEvent (ovfState s) = captureEvent s) :
    capState (ovfState s) = ovfState (capState s) := by
  have hfull : isFull (ovfState s) = isFull s := rfl
  cases hf : isFull s with
  | true =>
    rw [capState_of_full hf, capState_of_full (hfull.trans hf)]
    rfl
  | false =>
    rw [capState_of_room hf, capState_of_room (hfull.trans hf), capEnqueueState, h]
    rfl

/-- After OVF no wrap is pending, and the stored count has the wrap. -/
theorem captureEvent_ovfState (s : State) :
    captureEvent (ovfState s) = { ticks := abstick (s.ovh + 1#16) s.icr, edge := s.edgeSel } := by
  have : captureEvent (ovfState s) = ⟨abstick (adjust false s.icr (s.ovh + 1#16)) s.icr, s.edgeSel⟩ := rfl
  rw [this, adjust_false]

/-- Settles O23: below the midpoint the guard counts the pending wrap as OVF would have; at or above it does not. -/
theorem serviceOrderAndTheGuard : Obligations.ServiceOrderAndTheGuard := by
  intro s h hovf hcap
  obtain ⟨-, -, -, hpend⟩ := (ovfEnabled_iff s).1 hovf
  have ovfThenCap := runOps_ovf_cap h hovf hcap
  have capThenOvf := runOps_cap_ovf h hovf hcap
  refine ⟨⟨_, ovfThenCap⟩, ⟨_, capThenOvf⟩, fun hlow => ?_, fun hhigh t ht => ?_⟩
  · have same_event : captureEvent (ovfState s) = captureEvent s := by
      rw [captureEvent_ovfState, captureEvent, hpend, adjust_true_of_lt _ hlow]
    rw [ovfThenCap, capThenOvf, capState_ovfState same_event]
  · obtain rfl : ovfState s = t := Host.Outcome.next.inj ((exec_ovf_of_enabled hovf).symm.trans ht)
    rw [captureEvent_ovfState, captureEvent, hpend, adjust_true_of_ge _ hhigh, abstick_add_one]

end Sys2Proof.Machine
end

section
/-! PROOFS. The polarities the CAPs of a run report alternate (spec/41_capture_source.md R145 (f), R146 (a)): CAP, a
dropping one too, arms the opposite polarity, and after INIT nothing else writes `EDGE_SEL`. -/

namespace Sys2Proof.Machine

@[simp] theorem oppositeEdge_oppositeEdge (e : Edge) : oppositeEdge (oppositeEdge e) = e := by
  cases e <;> rfl

theorem exec_cap_edgeSel {s t : State} (hx : exec .cap s = .next t) : t.edgeSel = oppositeEdge s.edgeSel := by
  rcases exec_cap_next_cases hx with ⟨-, rfl⟩ | ⟨-, rfl⟩
  · rfl
  · rfl

theorem not_exec_init_of_inited {s t : State} (hi : s.inited = true) : exec .init s ≠ .next t := by
  simp [exec_init_eq, hi]

/-- Only CAP and INIT write `EDGE_SEL` (R44), and INIT is not admitted twice. -/
theorem exec_edgeSel_of_ne_cap {i : Instr} {s t : State} (hi : s.inited = true) (hx : exec i s = .next t)
    (hne : i ≠ .cap) : t.edgeSel = s.edgeSel := by
  obtain ⟨-, -, -, -, -, -, -, -, hedge, -⟩ := onlyTheOwnerWrites i s t hx
  by_contra hchanged
  rcases hedge hchanged with rfl | rfl
  · exact hne rfl
  · exact not_exec_init_of_inited hi hx

theorem capturedEdges_cap_cons {s u : State} (hx : exec .cap s = .next u) (ops : List Instr) :
    capturedEdges (.cap :: ops) s = s.edgeSel :: capturedEdges ops u := by
  rw [capturedEdges, stateAfter_next hx, if_pos rfl, List.singleton_append]

theorem capturedEdges_cons_of_ne_cap {i : Instr} {s u : State} (hx : exec i s = .next u) (hne : i ≠ .cap)
    (ops : List Instr) : capturedEdges (i :: ops) s = capturedEdges ops u := by
  rw [capturedEdges, stateAfter_next hx, if_neg hne, List.nil_append]

/-- The places after the first of an alternation that starts with `e` are an alternation that starts with the
opposite of `e`. -/
theorem alternation_succ (e : Edge) (n : Nat) :
    (if (n + 1) % 2 = 0 then e else oppositeEdge e) =
      if n % 2 = 0 then oppositeEdge e else oppositeEdge (oppositeEdge e) := by
  rw [oppositeEdge_oppositeEdge]
  rcases Nat.mod_two_eq_zero_or_one n with h | h
  · simp [h, Nat.succ_mod_two_eq_one_iff.2 h]
  · simp [h, Nat.succ_mod_two_eq_zero_iff.2 h]

/-- Settles O24, by induction on the run: a CAP reports the polarity armed and arms the opposite for the rest, and any
other operation reports nothing and leaves the polarity. -/
theorem capturedEdgesAlternate : Obligations.CapturedEdgesAlternate := by
  intro ops
  induction ops with
  | nil =>
    intro s t _ _ n hn
    exact absurd hn (Nat.not_lt_zero n)
  | cons i ops ih =>
    intro s t hi hrun
    obtain ⟨u, hx, hrest⟩ := runOps_cons_next hrun
    have rest := ih u t (exec_keeps_inited hx hi) hrest
    by_cases hcap : i = .cap
    · subst hcap
      rw [exec_cap_edgeSel hx] at rest
      rw [capturedEdges_cap_cons hx]
      intro n hn
      cases n with
      | zero => rfl
      | succ n =>
        rw [List.getElem?_cons_succ, alternation_succ]
        exact rest n (Nat.lt_of_succ_lt_succ hn)
    · rw [capturedEdges_cons_of_ne_cap hx hcap, ← exec_edgeSel_of_ne_cap hi hx hcap]
      exact rest

end Sys2Proof.Machine
end

section
/-! PROOFS. `ENQ`s without a POP: as many events as there is room for are kept, and the rest are counted
(spec/41_capture_source.md R143 (f)). -/

namespace Sys2Proof.Machine

theorem isFull_eq_false_of_room {s : State} (h : QueueReady s) {k : Nat}
    (hk : occupancy s + (k + 1) + 1 = capacity s.config) : isFull s = false := by
  rw [Bool.eq_false_iff, ne_eq, isFull_iff s h.head_lt h.tail_lt]
  omega

theorem enqEvent_dropped_of_room {s : State} (h : QueueReady s) (ev : CaptureEvent) (hf : isFull s = false) :
    (enqEvent ev s).dropped = s.dropped := by
  rw [enqEvent_of_room ev h.head_lt hf]

theorem occupancy_enqEvent_of_room {s : State} (h : QueueReady s) (ev : CaptureEvent) (hf : isFull s = false) :
    occupancy (enqEvent ev s) = occupancy s + 1 := by
  rw [← length_queue, queue_enqEvent_of_room h ev hf, List.length_append, length_queue, List.length_singleton]

/-- One loss counted and then `n` more are `n + 1` losses counted. -/
theorem add_one_add_ofNat (d : Count) (n : Nat) : d + 1#16 + BitVec.ofNat 16 n = d + BitVec.ofNat 16 (n + 1) := by
  rw [BitVec.add_assoc, BitVec.add_comm 1#16, BitVec.ofNat_add]

/-- With room for `k` more, `ENQ`s add the first `k` events and count the others. -/
theorem enqAll_keeps_first_counts_rest {s : State} (h : QueueReady s) (evs : List CaptureEvent) {k : Nat}
    (hk : occupancy s + k + 1 = capacity s.config) :
    queue (enqAll evs s) = queue s ++ evs.take k ∧
      (enqAll evs s).dropped = s.dropped + BitVec.ofNat 16 (evs.length - k) := by
  induction evs generalizing s k with
  | nil => simp [enqAll]
  | cons ev evs ih =>
    have ready := queueReady_enqEvent h ev
    cases k with
    | zero =>
      have dropped := enqEvent_of_full ev ((isFull_iff s h.head_lt h.tail_lt).2 hk)
      rw [dropped] at ready
      obtain ⟨hqueue, hcount⟩ := ih (k := 0) ready hk
      rw [enqAll, dropped, hqueue, hcount]
      exact ⟨rfl, add_one_add_ofNat s.dropped evs.length⟩
    | succ k =>
      have hf := isFull_eq_false_of_room h hk
      have hk' : occupancy (enqEvent ev s) + k + 1 = capacity (enqEvent ev s).config := by
        rw [occupancy_enqEvent_of_room h ev hf, enqEvent_config h]
        omega
      obtain ⟨hqueue, hcount⟩ := ih ready hk'
      rw [enqAll, hqueue, hcount, queue_enqEvent_of_room h ev hf, enqEvent_dropped_of_room h ev hf]
      simp

/-- Settles O48: an empty queue has room for `CAPACITY - 1` events. -/
theorem boundedCapacityCountsDrops : Obligations.BoundedCapacityCountsDrops := by
  intro evs s hinv hi hempty
  have h : QueueReady s := hinv.queueReady hi
  have hocc : occupancy s = 0 := (occupancy_eq_zero s h.head_lt h.tail_lt).2 hempty
  have hnil : queue s = [] := (queue_eq_nil_iff s h.head_lt h.tail_lt).2 hempty
  have hroom : occupancy s + (capacity s.config - 1) + 1 = capacity s.config := by
    have := capacity_pos s.config
    omega
  have kept := enqAll_keeps_first_counts_rest h evs hroom
  rwa [hnil, List.nil_append] at kept

end Sys2Proof.Machine
end

section
/-! PROOFS. The consumer commands case by case: AVAIL and POP with and without an event queued, DROPPED, and the refusal
before INIT (spec/42_event_queue_consumer_api.md R170 to R172, spec/60_exceptions.md R203). -/

namespace Sys2Proof.Machine

/-- AVAIL, POP and DROPPED need `INITED = 1` (R203). -/
theorem exec_consumer_of_not_inited {i : Instr} {s : State} (hagent : agentOf i = .consumer) (hi : s.inited = false) :
    exec i s = .refused .notInitialised := by
  have uninitialised : ¬ s.inited = true := Bool.eq_false_iff.1 hi
  cases i with
  | avail => rw [exec_avail_eq, if_neg uninitialised]
  | pop => rw [exec_pop_eq, if_neg uninitialised]
  | dropped => rw [exec_dropped_eq, if_neg uninitialised]
  | tick | pin _ | ovf | cap | init | gie _ => cases hagent

theorem exec_avail_of_inited {s : State} (hi : s.inited = true) :
    exec .avail s = .next (respond (.avail (availWord (!isEmpty s))) s) := by
  rw [exec_avail_eq, if_pos hi]

theorem exec_pop_of_empty {s : State} (hi : s.inited = true) (he : isEmpty s = true) :
    exec .pop s = .next (respond (.popped (popWord none)) s) := by
  rw [exec_pop_eq, if_pos hi, if_pos he]

theorem exec_pop_of_queued {s : State} (hi : s.inited = true) (he : isEmpty s = false)
    (htail : slotExists s.config s.tail = true) : exec .pop s = .next (popTakeState s) := by
  rw [exec_pop_eq, if_pos hi, if_neg (Bool.eq_false_iff.1 he), if_pos htail]

theorem exec_dropped_of_inited {s : State} (hi : s.inited = true) :
    exec .dropped s = .next (respond (.count s.dropped) s) := by
  rw [exec_dropped_eq, if_pos hi]

/-- A slot that no CAP has written holds the value drawn for it (R28, R45). -/
theorem slotValue_eq_getD (i : Index) (s : State) :
    slotValue i s = (Memory.read s.buf i.toNat).getD (Config.unwrittenSlot i.toNat) := by
  rw [slotValue]
  cases Memory.read s.buf i.toNat <;> rfl

/-- `valid`, `edge` and `ticks` in R96's places, the edge bit 1 for Rising. -/
theorem popWord_some (ev : CaptureEvent) :
    popWord (some ev) = 1#1 ++ (BitVec.ofBool (decide (ev.edge = .rising)) ++ ev.ticks) := by
  rw [popWord, eventWord, edgeBit_eq_decide]

/-- Settles O28: the answer is the negation of `isEmpty`, which compares `HEAD` with `TAIL`. -/
theorem availIsAPureHint : Obligations.AvailIsAPureHint := by
  refine ⟨decode_encode .avail, fun s => ⟨fun hi hne => ?_, fun hi heq => ?_, exec_consumer_of_not_inited rfl⟩⟩
  · rw [exec_avail_of_inited hi, (isEmpty_eq_false_iff s).2 hne]
    rfl
  · rw [exec_avail_of_inited hi, (isEmpty_eq_true_iff s).2 heq]
    rfl

/-- Settles O29: the state POP leaves is `popTakeState`, whose answer carries what slot `TAIL` holds. -/
theorem popTakesTheOldest : Obligations.PopTakesTheOldest := by
  refine ⟨decode_encode .pop, fun s => ⟨fun hi heq => ?_, fun hi hne htail ev hev => ?_,
    exec_consumer_of_not_inited rfl⟩⟩
  · exact exec_pop_of_empty hi ((isEmpty_eq_true_iff s).2 heq)
  · have oldest : slotValue s.tail s = ev := (slotValue_eq_getD s.tail s).trans hev
    rw [exec_pop_of_queued hi ((isEmpty_eq_false_iff s).2 hne) (decide_eq_true htail), popTakeState, oldest,
      popWord_some]
    rfl

/-- Settles O30. -/
theorem droppedReadsTheCounter : Obligations.DroppedReadsTheCounter :=
  ⟨decode_encode .dropped, fun _ => ⟨exec_dropped_of_inited, exec_consumer_of_not_inited rfl⟩⟩

end Sys2Proof.Machine
end

section
/-! PROOFS. INIT and GIE case by case: the admitted run and the refusals of each, and what of the state before INIT the
state after it can depend on (spec/43_initialization.md R190, R191). -/

namespace Sys2Proof.Machine

theorem exec_init_of_admitted {s : State} (hi : s.inited = false) (hg : s.gie = false) :
    exec .init s = .next (respond .nothing (onInitialize s)) := by
  rw [exec_init_eq, if_neg (Bool.eq_false_iff.1 hi), if_neg (Bool.eq_false_iff.1 hg)]

theorem exec_init_of_inited {s : State} (hi : s.inited = true) : exec .init s = .refused .initTwice := by
  rw [exec_init_eq, if_pos hi]

theorem exec_init_of_gie {s : State} (hi : s.inited = false) (hg : s.gie = true) :
    exec .init s = .refused .initWithInterruptsEnabled := by
  rw [exec_init_eq, if_neg (Bool.eq_false_iff.1 hi), if_pos hg]

/-- Settles O33: INIT's three cases, in the order R190 checks them. -/
theorem initWritesItsList : Obligations.InitWritesItsList :=
  ⟨decode_encode .init, fun _ => ⟨exec_init_of_admitted, exec_init_of_inited, exec_init_of_gie⟩⟩

/-- The admission also fixes `GIE`, which INIT does not write. -/
theorem exec_init_next {s t : State} (hx : exec .init s = .next t) :
    s.gie = false ∧ t = respond .nothing (onInitialize s) := by
  rw [exec_init_eq] at hx
  split at hx
  · cases hx
  · split at hx
    · cases hx
    · next hg =>
      cases hx
      exact ⟨Bool.eq_false_iff.2 hg, rfl⟩

/-- The answered state is built of constants and of these seven fields, the configuration giving `EDGE_SEL` and `NC_EN`. -/
theorem respond_onInitialize_congr {s s' : State} (r : Response) (hconfig : s.config = s'.config)
    (hbuf : s.buf = s'.buf) (hicr : s.icr = s'.icr) (hpin : s.pin = s'.pin) (hgie : s.gie = s'.gie)
    (hschedule : s.schedule = s'.schedule) (hturn : s.turn = s'.turn) :
    respond r (onInitialize s) = respond r (onInitialize s') := by
  rw [respond, respond, onInitialize, onInitialize, hconfig, hbuf, hicr, hpin, hgie, hschedule, hturn]

/-- Settles O34: `GIE` is 0 in both states before, as INIT was admitted; the other fields INIT keeps agree by
assumption. -/
theorem initForgetsTheRest : Obligations.InitForgetsTheRest := by
  intro s s' t t' hx hx' hconfig hbuf hicr hpin hschedule hturn
  obtain ⟨hg, rfl⟩ := exec_init_next hx
  obtain ⟨hg', rfl⟩ := exec_init_next hx'
  exact respond_onInitialize_congr .nothing hconfig hbuf hicr hpin (hg.trans hg'.symm) hschedule hturn

theorem exec_gie_of_admitted {v : Bool} {s : State} (h : v = true → s.inited = true) :
    exec (.gie v) s = .next { s with gie := v, response := .nothing } := by
  have admitted : ¬ (v && !s.inited) = true := by simpa using h
  rw [exec_gie_eq, if_neg admitted, respond]

theorem exec_gie_true_of_not_inited {s : State} (hi : s.inited = false) :
    exec (.gie true) s = .refused .notInitialised := by
  rw [exec_gie_eq, hi]
  rfl

/-- Settles O35: the admission asks nothing of `GIE 0`, and `INITED = 1` of `GIE 1`. -/
theorem gieSetsTheEnable : Obligations.GieSetsTheEnable :=
  ⟨decode_encode (.gie false), decode_encode (.gie true), fun _ =>
    ⟨exec_gie_of_admitted Bool.noConfusion, fun hi => exec_gie_of_admitted fun _ => hi, exec_gie_true_of_not_inited⟩⟩

end Sys2Proof.Machine
end

section
/-! PROOFS. The refusals: each operation is refused exactly in its case, and a service that is not refused in a state of
the invariant is Done (spec/60_exceptions.md R203, R208). -/

namespace Sys2Proof.Machine

/-- What is Done under a condition and refused for one reason without it is Done exactly under the condition, and
refused for that reason wherever it is not Done. -/
theorem done_iff_and_refused_of_cases {x : Outcome} {p : Prop} {r : Refusal} (hdone : p → ∃ t, x = .next t)
    (hrefused : ¬ p → x = .refused r) :
    ((∃ t, x = .next t) ↔ p) ∧ ((∀ t, x ≠ .next t) → x = .refused r) := by
  refine ⟨⟨fun ⟨t, ht⟩ => ?_, hdone⟩, fun hnot => hrefused fun hp => ?_⟩
  · by_contra hp
    cases ht.symm.trans (hrefused hp)
  · obtain ⟨t, ht⟩ := hdone hp
    exact hnot t ht

/-- Settles O22: under the invariant `HEAD` names a slot, so an enabled CAP cannot stop at its store. -/
theorem servicesRunExactlyWhenEnabled : Obligations.ServicesRunExactlyWhenEnabled := by
  intro s hinv
  rw [← capEnabled_iff, ← ovfEnabled_iff]
  obtain ⟨cap_done, cap_refused⟩ :=
    done_iff_and_refused_of_cases (fun h => ⟨_, exec_cap_of_enabled hinv h⟩) exec_cap_of_not_enabled
  obtain ⟨ovf_done, ovf_refused⟩ :=
    done_iff_and_refused_of_cases (fun h => ⟨_, exec_ovf_of_enabled (s := s) h⟩) exec_ovf_of_not_enabled
  exact ⟨cap_done, ovf_done, cap_refused, ovf_refused⟩

theorem exec_consumer_ne_refused_of_inited {i : Instr} {s : State} (hagent : agentOf i = .consumer)
    (hi : s.inited = true) (r : Refusal) : exec i s ≠ .refused r := by
  cases i with
  | avail => simp [exec_avail_of_inited hi]
  | pop =>
    rw [exec_pop_eq, if_pos hi]
    split
    · exact nofun
    · split <;> exact nofun
  | dropped => simp [exec_dropped_of_inited hi]
  | tick | pin _ | ovf | cap | init | gie _ => cases hagent

theorem exec_consumer_refused_iff {i : Instr} {s : State} {r : Refusal} (hagent : agentOf i = .consumer) :
    exec i s = .refused r ↔ r = .notInitialised ∧ s.inited = false := by
  cases hi : s.inited with
  | true => simp [exec_consumer_ne_refused_of_inited hagent hi]
  | false => simp [exec_consumer_of_not_inited hagent hi, eq_comm (b := r)]

theorem exec_ovf_refused_iff {s : State} {r : Refusal} :
    exec .ovf s = .refused r ↔ r = .notEnabled ∧ ¬ ovfEnabled s = true := by
  by_cases h : ovfEnabled s = true
  · simp [exec_ovf_of_enabled h, h]
  · simp [exec_ovf_of_not_enabled h, h, eq_comm (b := r)]

/-- An enabled CAP is Done or stops at a slot that does not exist, and is refused in neither case. -/
theorem exec_cap_refused_iff {s : State} {r : Refusal} :
    exec .cap s = .refused r ↔ r = .notEnabled ∧ ¬ capEnabled s = true := by
  by_cases h : capEnabled s = true
  · have not_refused : exec .cap s ≠ .refused r := by
      rw [exec_cap_eq, if_pos h]
      split
      · exact nofun
      · split <;> exact nofun
    simp [not_refused, h]
  · simp [exec_cap_of_not_enabled h, h, eq_comm (b := r)]

theorem exec_init_refused_iff {s : State} {r : Refusal} :
    exec .init s = .refused r ↔ (r = .initTwice ∧ s.inited = true) ∨
      (r = .initWithInterruptsEnabled ∧ s.inited = false ∧ s.gie = true) := by
  cases hi : s.inited with
  | true => simp [exec_init_of_inited hi, eq_comm (b := r)]
  | false =>
    cases hg : s.gie with
    | true => simp [exec_init_of_gie hi hg, eq_comm (b := r)]
    | false => simp [exec_init_of_admitted hi hg]

theorem exec_gie_refused_iff {v : Bool} {s : State} {r : Refusal} :
    exec (.gie v) s = .refused r ↔ r = .notInitialised ∧ s.inited = false ∧ v = true := by
  cases v with
  | false => simp [exec_gie_of_admitted (v := false) (s := s) Bool.noConfusion]
  | true =>
    cases hi : s.inited with
    | true => simp [exec_gie_of_admitted fun _ => hi]
    | false => simp [exec_gie_true_of_not_inited hi, eq_comm (b := r)]

/-- Settles O36, operation by operation: TICK and PIN are never refused, every other one as its own lemma says. -/
theorem refusalsAreAClosedList : Obligations.RefusalsAreAClosedList := by
  intro i s r
  rw [← ovfEnabled_iff, ← capEnabled_iff]
  cases i with
  | tick => simp [exec_tick_eq]
  | pin v => simp [exec_pin_eq]
  | ovf => simp [exec_ovf_refused_iff]
  | cap => simp [exec_cap_refused_iff]
  | avail => simp [exec_consumer_refused_iff (i := .avail) rfl]
  | pop => simp [exec_consumer_refused_iff (i := .pop) rfl]
  | dropped => simp [exec_consumer_refused_iff (i := .dropped) rfl]
  | init => simp [exec_init_refused_iff]
  | gie v => simp [exec_gie_refused_iff]

end Sys2Proof.Machine
end

section
/-! PROOFS. No fault: an operation can stop only where `HEAD` or `TAIL` names no slot, which the invariant excludes
(spec/20_memory.md R61, spec/60_exceptions.md R200). -/

namespace Sys2Proof.Machine

/-- Everything that can make an operation fault: the slot access of CAP with room, or of POP of an event. -/
theorem exec_fault_cases {i : Instr} {s : State} {f : Fault} (hx : exec i s = .fault f) :
    (i = .cap ∧ capEnabled s = true ∧ slotExists s.config s.head = false) ∨
    (i = .pop ∧ s.inited = true ∧ slotExists s.config s.tail = false) := by
  cases i with
  | cap =>
    rw [exec_cap_eq] at hx
    split at hx
    next hen =>
      split at hx
      · cases hx
      · split at hx
        · cases hx
        next hslot => exact .inl ⟨rfl, hen, Bool.eq_false_iff.2 hslot⟩
    · cases hx
  | pop =>
    rw [exec_pop_eq] at hx
    split at hx
    next hi =>
      split at hx
      · cases hx
      · split at hx
        · cases hx
        next hslot => exact .inr ⟨rfl, hi, Bool.eq_false_iff.2 hslot⟩
    · cases hx
  | tick => cases hx
  | pin v => cases hx
  | ovf => rw [exec_ovf_eq] at hx; split at hx <;> cases hx
  | avail => rw [exec_avail_eq] at hx; split at hx <;> cases hx
  | dropped => rw [exec_dropped_eq] at hx; split at hx <;> cases hx
  | init =>
    rw [exec_init_eq] at hx
    split at hx
    · cases hx
    · split at hx <;> cases hx
  | gie v => rw [exec_gie_eq] at hx; split at hx <;> cases hx

theorem exec_ne_fault {s : State} (h : Inv s) (i : Instr) (f : Fault) : exec i s ≠ .fault f := by
  intro hx
  rcases exec_fault_cases hx with ⟨-, hen, hhead⟩ | ⟨-, hi, htail⟩
  · obtain ⟨hi, -, -, -⟩ := (capEnabled_iff s).1 hen
    exact of_decide_eq_false hhead (h.headInMask hi)
  · exact of_decide_eq_false htail (h.tailInMask hi)

/-- Whatever is scheduled, a step is refused for a reserved word, or it is one operation on the state with at most its
schedule and its turn moved on. -/
theorem step_eq_reserved_or_exec (s : State) :
    step s = .refused .reservedOp ∨
      ∃ (i : Instr) (words : List Byte) (turn : Nat), step s = exec i { s with schedule := words, turn := turn } := by
  cases hs : s.schedule with
  | nil => exact .inr ⟨_, s.schedule, _, step_of_unscheduled hs⟩
  | cons w rest =>
    cases hw : decode w with
    | ok i => exact .inr ⟨i, rest, s.turn, step_of_queued hs hw⟩
    | error e => exact .inl (step_of_reserved hs hw)

/-- Settles O41: the invariant does not speak of the schedule, so it holds of the state the operation starts from. -/
theorem noStepFaults : Obligations.NoStepFaults := by
  intro s f h hstep
  rcases step_eq_reserved_or_exec s with hreserved | ⟨i, words, turn, hexec⟩
  · cases hreserved.symm.trans hstep
  · have hfetched : Inv { s with schedule := words, turn := turn } := h.of_invariantView_eq rfl
    exact exec_ne_fault hfetched i f (hexec.symm.trans hstep)

end Sys2Proof.Machine
end

section
/-! PROOFS. Loss is counted: of each CAP the event is enqueued or `DROPPED` goes up by one, and after INIT nothing else
writes `DROPPED` (spec/60_exceptions.md R201, R202, spec/70_reset_and_hazards.md R245). -/

namespace Sys2Proof.Machine

/-- Only CAP and INIT write `DROPPED` (R44), and INIT is not admitted twice. -/
theorem exec_keeps_dropped_of_ne_cap {i : Instr} {s t : State} (hi : s.inited = true) (hx : exec i s = .next t)
    (hne : i ≠ .cap) : t.dropped = s.dropped := by
  obtain ⟨-, -, -, -, -, -, hdropped, -⟩ := onlyTheOwnerWrites i s t hx
  by_contra hchanged
  rcases hdropped hchanged with rfl | rfl
  · exact hne rfl
  · exact not_exec_init_of_inited hi hx

/-- One operation: the CAPs in it that enqueued nothing are the losses it counts. -/
theorem exec_counts_loss {i : Instr} {s t : State} (hi : s.inited = true) (hx : exec i s = .next t) :
    ∃ lost : Nat, (enqueuedBy i s).length + lost = [i].count .cap ∧ t.dropped = s.dropped + BitVec.ofNat 16 lost := by
  by_cases hcap : i = .cap
  · subst hcap
    rcases exec_cap_next_cases hx with ⟨hf, rfl⟩ | ⟨hf, rfl⟩
    · exact ⟨1, by rw [enqueuedBy_cap_full hf]; rfl, rfl⟩
    · exact ⟨0, by rw [enqueuedBy_cap_room hf]; rfl, (BitVec.add_zero s.dropped).symm⟩
  · refine ⟨0, ?_, ?_⟩
    · rw [enqueuedBy_of_ne_cap s hcap, List.count_singleton]
      simp [hcap]
    · rw [exec_keeps_dropped_of_ne_cap hi hx hcap, BitVec.add_zero]

/-- A run: the CAPs in it that enqueued nothing are the losses it counts. -/
theorem runOps_counts_loss {ops : List Instr} {s t : State} (hi : s.inited = true) (hrun : runOps ops s = .next t) :
    ∃ lost : Nat, (enqueuedIn ops s).length + lost = ops.count .cap ∧
      t.dropped = s.dropped + BitVec.ofNat 16 lost := by
  induction ops generalizing s with
  | nil =>
    cases hrun
    exact ⟨0, rfl, (BitVec.add_zero _).symm⟩
  | cons i ops ih =>
    obtain ⟨u, hx, hrest⟩ := runOps_cons_next hrun
    obtain ⟨first, hfirst, hu⟩ := exec_counts_loss hi hx
    obtain ⟨rest, hrest, ht⟩ := ih (exec_keeps_inited hx hi) hrest
    refine ⟨first + rest, ?_, ?_⟩
    · rw [enqueuedIn_cons hx, List.length_append, ← List.singleton_append, List.count_append]
      omega
    · rw [ht, hu, BitVec.ofNat_add, BitVec.add_assoc]

/-- Settles O47: the losses of the run are its CAPs less its enqueues. -/
theorem everyCaptureIsEnqueuedOrCounted : Obligations.EveryCaptureIsEnqueuedOrCounted := by
  intro ops s t hi hrun
  obtain ⟨lost, hlost, hdropped⟩ := runOps_counts_loss hi hrun
  have lost_eq : ops.count .cap - (enqueuedIn ops s).length = lost := by omega
  exact ⟨by omega, lost_eq ▸ hdropped⟩

end Sys2Proof.Machine
end

section
/-! PROOFS. An enabled service stays enabled: a flag is cleared by its own service and by INIT only, and `GIE` by
`GIE 0` only (spec/60_exceptions.md R205, R208). -/

namespace Sys2Proof.Machine

/-- TICK never clears the overflow flag (R120). -/
theorem ovfEnabled_countTick {s : State} (h : ovfEnabled s = true) : ovfEnabled (countTick s) = true := by
  obtain ⟨hi, hg, hie, hpend⟩ := (ovfEnabled_iff s).1 h
  exact (ovfEnabled_iff _).2 ⟨hi, hg, hie, by simp [countTick, hpend]⟩

/-- PIN never clears the capture flag (R121). -/
theorem capEnabled_detectEdge {s : State} (v : Bool) (h : capEnabled s = true) :
    capEnabled (detectEdge v s) = true := by
  obtain ⟨hi, hg, hie, hpend⟩ := (capEnabled_iff s).1 h
  exact (capEnabled_iff _).2 ⟨hi, hg, hie, by simp [detectEdge, hpend]⟩

theorem capEnabled_setGie_true {s : State} (h : capEnabled s = true) : capEnabled { s with gie := true } = true := by
  obtain ⟨hi, -, hie, hpend⟩ := (capEnabled_iff s).1 h
  exact (capEnabled_iff _).2 ⟨hi, rfl, hie, hpend⟩

theorem ovfEnabled_setGie_true {s : State} (h : ovfEnabled s = true) : ovfEnabled { s with gie := true } = true := by
  obtain ⟨hi, -, hie, hpend⟩ := (ovfEnabled_iff s).1 h
  exact (ovfEnabled_iff _).2 ⟨hi, rfl, hie, hpend⟩

theorem capEnabled_of_not_inited {s : State} (hi : s.inited = false) : capEnabled s = false := by
  simp [capEnabled, hi]

theorem ovfEnabled_of_not_inited {s : State} (hi : s.inited = false) : ovfEnabled s = false := by
  simp [ovfEnabled, hi]

/-- Settles O50, by the effect of the operation: outside TICK, PIN, the two services, INIT and GIE it names no field of
a dispatch condition; INIT is admitted only where no service is enabled, and of `GIE v` only `GIE 1` is left. -/
theorem enabledServicesStayEnabled : Obligations.EnabledServicesStayEnabled := by
  intro i s t hx hgie
  rcases exec_next_cases hx with ⟨-, rfl⟩ | ⟨v, -, rfl⟩ | ⟨rfl, -, rfl⟩ | ⟨rfl, -, -, rfl⟩ | ⟨rfl, -, -, -, rfl⟩ |
    ⟨-, -, rfl⟩ | ⟨-, -, -, rfl⟩ | ⟨-, -, -, -, rfl⟩ | ⟨-, -, rfl⟩ | ⟨-, hi, -, -⟩ | ⟨v, rfl, -, rfl⟩
  · exact ⟨fun h _ => h, fun h _ => ovfEnabled_countTick h⟩
  · exact ⟨fun h _ => capEnabled_detectEdge v h, fun h _ => h⟩
  · exact ⟨fun h _ => h, fun _ hne => absurd rfl hne⟩
  · exact ⟨fun _ hne => absurd rfl hne, fun h _ => h⟩
  · exact ⟨fun _ hne => absurd rfl hne, fun h _ => h⟩
  · exact ⟨fun h _ => h, fun h _ => h⟩
  · exact ⟨fun h _ => h, fun h _ => h⟩
  · exact ⟨fun h _ => h, fun h _ => h⟩
  · exact ⟨fun h _ => h, fun h _ => h⟩
  · simp [capEnabled_of_not_inited hi, ovfEnabled_of_not_inited hi]
  · obtain rfl : v = true := by
      cases v with
      | false => exact absurd rfl hgie
      | true => rfl
    exact ⟨fun h _ => capEnabled_setGie_true (s := s) h, fun h _ => ovfEnabled_setGie_true (s := s) h⟩

end Sys2Proof.Machine
end

section
/-! PROOFS. The state right after reset (spec/10_state.md R45, spec/70_reset_and_hazards.md R240). -/

namespace Sys2Proof.Machine

theorem read_atReset (c : Config) (d : ResetDraw) (a : Nat) : Memory.read (State.atReset c d).buf a = none := rfl

/-- No slot is listed at reset, so each holds the value drawn for it (R28, R45). -/
theorem slotValue_atReset (c : Config) (d : ResetDraw) (i : Index) :
    slotValue i (State.atReset c d) = Config.unwrittenSlot i.toNat := by
  rw [slotValue_eq_getD, read_atReset, Option.getD_none]

/-- Settles O11: the registers are the fields of `State.atReset`, and no slot is listed. -/
theorem resetLeavesEnablesZero : Obligations.ResetLeavesEnablesZero :=
  fun c d => ⟨⟨rfl, rfl, rfl, rfl⟩, ⟨rfl, rfl, rfl, rfl, rfl, rfl, rfl, rfl, rfl, rfl, rfl, rfl⟩,
    read_atReset c d, slotValue_atReset c d⟩

end Sys2Proof.Machine
end

section
/-! PROOFS. Edges before service (spec/70_reset_and_hazards.md R244): the first armed edge is latched, the opposite edge
moves `PIN` only, and the armed edge again is latched or held off by the pending capture. -/

namespace Sys2Proof.Machine

/-- Two runs that are Done, one after the other. -/
theorem runOps_append_of_next {a b : List Instr} {s t u : State} (ha : runOps a s = .next t)
    (hb : runOps b t = .next u) : runOps (a ++ b) s = .next u := by
  rw [runOps_append, ha]
  exact hb

/-- The state an armed edge leaves that the latch takes. -/
def latchedState (v : Bool) (s : State) : State :=
  { s with pin := v, icr := s.cnt, capPend := true, response := .nothing }

/-- The state an edge leaves that moves `PIN` and nothing else. -/
def pinMovedState (v : Bool) (s : State) : State := { s with pin := v, response := .nothing }

/-- The state `n` ticks leave while `RUN = 1`, the last response being `r` (it is the old one where `n` is 0). -/
def tickedState (n : Nat) (r : Response) (s : State) : State :=
  { s with
    cnt := s.cnt + BitVec.ofNat 16 n
    ovfPend := s.ovfPend || decide (65536 ≤ s.cnt.toNat + n)
    response := r }

theorem runOps_ticksOps (n : Nat) {s : State} (hrun : s.run = true) :
    ∃ r, runOps (ticksOps n) s = .next (tickedState n r s) := ticksAdvanceTheCounter n s hrun

theorem runOps_pin (v : Bool) (s : State) : runOps [.pin v] s = .next (respond .nothing (detectEdge v s)) := rfl

theorem runOps_pin_of_latch {v : Bool} {s : State} (hv : v ≠ s.pin) (he : s.edgeSel = edgeOfBit v)
    (hl : latchOpen s = true) : runOps [.pin v] s = .next (latchedState v s) := by
  rw [runOps_pin, detectEdge_of_latch hv he hl]
  rfl

theorem runOps_pin_of_hold {v : Bool} {s : State} (hv : v ≠ s.pin) (he : s.edgeSel = edgeOfBit v)
    (hp : s.capPend = true) (hr : s.config.recapture = .hold) :
    runOps [.pin v] s = .next (pinMovedState v s) := by
  rw [runOps_pin, detectEdge_of_hold hv he hp hr]
  rfl

theorem runOps_pin_of_other_edge {v : Bool} {s : State} (hv : v ≠ s.pin) (he : s.edgeSel ≠ edgeOfBit v) :
    runOps [.pin v] s = .next (pinMovedState v s) := by
  rw [runOps_pin, detectEdge_of_other_edge hv he]
  rfl

/-- Settles O17: the first edge finds no capture pending and is latched, the second is not armed, and the third finds
the capture pending, so `RECAPTURE` decides. -/
theorem edgesBeforeServiceAreLostUncounted : Obligations.EdgesBeforeServiceAreLostUncounted := by
  intro s v m n hrun hpend hpin harmed
  have htransition : v ≠ s.pin := by simp [hpin]
  have hother : s.edgeSel ≠ edgeOfBit (!v) := by
    rw [harmed]
    cases v <;> decide
  have first := runOps_pin_of_latch htransition harmed ((latchOpen_iff s).2 (.inl hpend))
  obtain ⟨r, ticks⟩ := runOps_ticksOps m (s := latchedState v s) hrun
  have second := runOps_pin_of_other_edge (s := tickedState m r (latchedState v s)) (Bool.not_ne_self v) hother
  obtain ⟨r', ticks'⟩ := runOps_ticksOps n (s := pinMovedState (!v) (tickedState m r (latchedState v s))) hrun
  have before_third :=
    runOps_append_of_next (runOps_append_of_next (runOps_append_of_next first ticks) second) ticks'
  have htransition' : v ≠ !v := (Bool.not_ne_self v).symm
  cases hr : s.config.recapture with
  | overwrite =>
    have third :=
      runOps_append_of_next before_third (runOps_pin_of_latch htransition' harmed ((latchOpen_iff _).2 (.inr hr)))
    refine ⟨_, third, rfl, rfl, rfl, rfl, ?_⟩
    rw [if_pos rfl, BitVec.ofNat_add, ← BitVec.add_assoc]
    rfl
  | hold =>
    have third := runOps_append_of_next before_third (runOps_pin_of_hold htransition' harmed rfl hr)
    exact ⟨_, third, rfl, rfl, rfl, rfl, rfl⟩

end Sys2Proof.Machine
end

section
/-! PROOFS. Wraps are conserved (spec/70_reset_and_hazards.md R243): `OVH` and the pending flag hold every wrap but
those absorbed into a flag already set. After INIT only TICK and OVF act on the counter and on the count of its wraps. -/

namespace Sys2Proof.Machine

/-- The wraps that `OVH` and the pending flag together have counted, modulo `2^16`. -/
def countedWraps (s : State) : Count := s.ovh + BitVec.ofNat 16 s.ovfPend.toNat

/-- After INIT, everything an operation can do to `CNT`, `OVH` and `OVF_PEND` (R44). -/
theorem exec_counter_cases {i : Instr} {s t : State} (hi : s.inited = true) (hx : exec i s = .next t) :
    (i = .tick ∧ t = respond .nothing (countTick s)) ∨
    (i = .ovf ∧ s.ovfPend = true ∧ t = ovfState s) ∨
    (i ≠ .tick ∧ t.cnt = s.cnt ∧ t.ovh = s.ovh ∧ t.ovfPend = s.ovfPend) := by
  by_cases htick : i = .tick
  · subst htick
    exact .inl ⟨rfl, (Host.Outcome.next.inj hx).symm⟩
  · by_cases hovf : i = .ovf
    · subst hovf
      have hen : ovfEnabled s = true := by
        by_contra hen
        cases (exec_ovf_of_not_enabled hen).symm.trans hx
      obtain ⟨-, -, -, hpend⟩ := (ovfEnabled_iff s).1 hen
      exact .inr (.inl ⟨rfl, hpend, Host.Outcome.next.inj (hx.symm.trans (exec_ovf_of_enabled hen))⟩)
    · have hinit : i ≠ .init := by
        rintro rfl
        exact not_exec_init_of_inited hi hx
      obtain ⟨-, hcnt, -, hovh, -, -, -, -, -, -, -, -, hpend, -⟩ := onlyTheOwnerWrites i s t hx
      exact .inr (.inr ⟨htick, not_imp_comm.1 hcnt (by simp [htick, hinit]),
        not_imp_comm.1 hovh (by simp [hovf, hinit]), not_imp_comm.1 hpend (by simp [htick, hovf, hinit])⟩)

theorem wrapsBy_tick_of_run {s : State} (hrun : s.run = true) : wrapsBy .tick s = decide (s.cnt = 0xFFFF#16) := by
  simp [wrapsBy, hrun]

theorem wrapsBy_of_ne_tick {i : Instr} (s : State) (h : i ≠ .tick) : wrapsBy i s = false := by
  cases i with
  | tick => exact absurd rfl h
  | pin _ | ovf | cap | avail | pop | dropped | init | gie _ => rfl

/-- A wrap sets the flag, and is lost exactly if the flag was set. -/
theorem countedWraps_countTick (s : State) :
    countedWraps (countTick s) + BitVec.ofNat 16 (wrapsBy .tick s && s.ovfPend).toNat =
      countedWraps s + BitVec.ofNat 16 (wrapsBy .tick s).toNat := by
  rcases countTick_cases s with ⟨hrun, hcnt, heq⟩ | ⟨hrun, hcnt, heq⟩ | ⟨hstop, heq⟩
  · have wraps : wrapsBy .tick s = true := by simp [wrapsBy, hrun, hcnt]
    cases hpend : s.ovfPend <;> simp [countedWraps, heq, wraps, hpend]
  · have no_wrap : wrapsBy .tick s = false := by simp [wrapsBy, hcnt]
    simp [countedWraps, heq, no_wrap]
  · have no_wrap : wrapsBy .tick s = false := by simp [wrapsBy, hstop]
    simp [heq, no_wrap]

/-- One operation: OVF moves the flag's wrap into `OVH`, and a TICK that wraps adds one or loses one. -/
theorem exec_conserves_wraps {i : Instr} {s t : State} (hi : s.inited = true) (hx : exec i s = .next t) :
    countedWraps t + BitVec.ofNat 16 (wrapsBy i s && s.ovfPend).toNat =
      countedWraps s + BitVec.ofNat 16 (wrapsBy i s).toNat := by
  rcases exec_counter_cases hi hx with ⟨rfl, rfl⟩ | ⟨rfl, hpend, rfl⟩ | ⟨hne, -, hovh, hpend⟩
  · exact countedWraps_countTick s
  · simp [countedWraps, ovfState, wrapsBy, hpend]
  · simp [countedWraps, wrapsBy_of_ne_tick s hne, hovh, hpend]

theorem wrapsIn_cons {i : Instr} {s u : State} (hx : exec i s = .next u) (ops : List Instr) :
    wrapsIn (i :: ops) s = (wrapsBy i s).toNat + wrapsIn ops u := by
  rw [wrapsIn, stateAfter_next hx]

theorem lostWrapsIn_cons {i : Instr} {s u : State} (hx : exec i s = .next u) (ops : List Instr) :
    lostWrapsIn (i :: ops) s = (wrapsBy i s && s.ovfPend).toNat + lostWrapsIn ops u := by
  rw [lostWrapsIn, stateAfter_next hx]

/-- Over a run, what was counted and what was lost make up the wraps. -/
theorem runOps_conserves_wraps {ops : List Instr} {s t : State} (hi : s.inited = true)
    (hrun : runOps ops s = .next t) :
    countedWraps t + BitVec.ofNat 16 (lostWrapsIn ops s) = countedWraps s + BitVec.ofNat 16 (wrapsIn ops s) := by
  induction ops generalizing s with
  | nil =>
    cases hrun
    rfl
  | cons i ops ih =>
    obtain ⟨u, hx, hrest⟩ := runOps_cons_next hrun
    have first := exec_conserves_wraps hi hx
    have rest := ih (exec_keeps_inited hx hi) hrest
    rw [wrapsIn_cons hx, lostWrapsIn_cons hx, BitVec.ofNat_add, BitVec.ofNat_add]
    linear_combination first + rest

/-- Settles O25. -/
theorem lostWrapsAreNeverCounted : Obligations.LostWrapsAreNeverCounted :=
  fun _ _ _ hi hrun => runOps_conserves_wraps hi hrun

end Sys2Proof.Machine
end

section
/-! PROOFS. The tick of a timely capture (spec/70_reset_and_hazards.md R242, R250): `CNT` and the wraps together count
the TICKs, the latch keeps `CNT` until CAP, and the guard takes the pending wrap as before or after the latch as R242's
conditions say. -/

namespace Sys2Proof.Machine

/-- INIT has run and the counter runs. -/
structure Counting (s : State) : Prop where
  inited : s.inited = true
  run : s.run = true

/-- Only INIT writes `RUN` (R44), and INIT is not admitted twice. -/
theorem exec_keeps_counting {i : Instr} {s t : State} (h : Counting s) (hx : exec i s = .next t) : Counting t := by
  obtain ⟨-, -, -, -, -, -, -, hrun, -⟩ := onlyTheOwnerWrites i s t hx
  have hinit : i ≠ .init := by
    rintro rfl
    exact not_exec_init_of_inited h.inited hx
  exact ⟨exec_keeps_inited hx h.inited, (not_imp_comm.1 hrun hinit).trans h.run⟩

theorem runOps_keeps_counting {ops : List Instr} {s t : State} (h : Counting s) (hrun : runOps ops s = .next t) :
    Counting t :=
  runOps_keeps exec_keeps_counting h hrun

/-- A TICK advances the counter by one, a wrap weighing `2^16`. -/
theorem cnt_countTick {s : State} (hrun : s.run = true) :
    65536 * (wrapsBy .tick s).toNat + (countTick s).cnt.toNat = s.cnt.toNat + 1 := by
  have hlt := s.cnt.isLt
  rw [wrapsBy_tick_of_run hrun, countTick_of_run hrun, BitVec.toNat_add]
  by_cases hcnt : s.cnt = 0xFFFF#16
  · simp [hcnt]
  · have hne : s.cnt.toNat ≠ 65535 := fun h => hcnt (BitVec.eq_of_toNat_eq h)
    rw [decide_eq_false hcnt, Bool.toNat_false, BitVec.toNat_ofNat]
    omega

theorem exec_counts_tick {i : Instr} {s t : State} (h : Counting s) (hx : exec i s = .next t) :
    65536 * (wrapsBy i s).toNat + t.cnt.toNat = s.cnt.toNat + [i].count .tick := by
  rcases exec_counter_cases h.inited hx with ⟨rfl, rfl⟩ | ⟨rfl, -, rfl⟩ | ⟨hne, hcnt, -, -⟩
  · exact cnt_countTick h.run
  · simp [wrapsBy, ovfState]
  · simp [wrapsBy_of_ne_tick s hne, hcnt, hne]

/-- Over a run, `CNT` and the wraps together count the TICKs. -/
theorem runOps_counts_ticks {ops : List Instr} {s t : State} (h : Counting s) (hrun : runOps ops s = .next t) :
    65536 * wrapsIn ops s + t.cnt.toNat = s.cnt.toNat + ops.count .tick := by
  induction ops generalizing s with
  | nil =>
    cases hrun
    simp [wrapsIn]
  | cons i ops ih =>
    obtain ⟨u, hx, hrest⟩ := runOps_cons_next hrun
    have first := exec_counts_tick h hx
    have rest := ih (exec_keeps_counting h hx) hrest
    rw [wrapsIn_cons hx, ← List.singleton_append, List.count_append]
    omega

theorem wrapsIn_append {a : List Instr} {s t : State} (ha : runOps a s = .next t) (b : List Instr) :
    wrapsIn (a ++ b) s = wrapsIn a s + wrapsIn b t := by
  induction a generalizing s with
  | nil =>
    cases ha
    exact (Nat.zero_add _).symm
  | cons i a ih =>
    obtain ⟨u, hx, hrest⟩ := runOps_cons_next ha
    rw [List.cons_append, wrapsIn_cons hx, wrapsIn_cons hx, ih hrest, Nat.add_assoc]

/-- Only a PIN that latches writes `ICR` (R121). -/
theorem exec_keeps_icr {i : Instr} {s t : State} (hx : exec i s = .next t) (hl : latchesBy i s = false) :
    t.icr = s.icr := by
  obtain ⟨-, -, hicr, -⟩ := onlyTheOwnerWrites i s t hx
  by_contra hchanged
  obtain ⟨v, rfl⟩ := hicr hchanged
  cases hx
  exact hchanged (if_neg (Bool.eq_false_iff.1 hl))

theorem latchesIn_cons {i : Instr} {s u : State} (hx : exec i s = .next u) (ops : List Instr) :
    latchesIn (i :: ops) s = (latchesBy i s).toNat + latchesIn ops u := by
  rw [latchesIn, stateAfter_next hx]

theorem runOps_keeps_icr {ops : List Instr} {s t : State} (hrun : runOps ops s = .next t)
    (hl : latchesIn ops s = 0) : t.icr = s.icr := by
  induction ops generalizing s with
  | nil =>
    cases hrun
    rfl
  | cons i ops ih =>
    obtain ⟨u, hx, hrest⟩ := runOps_cons_next hrun
    rw [latchesIn_cons hx, Nat.add_eq_zero_iff, Bool.toNat_eq_zero] at hl
    obtain ⟨first, rest⟩ := hl
    rw [ih hrest rest, exec_keeps_icr hx first]

theorem exec_pin_icr_of_latches {v : Bool} {s t : State} (hx : exec (.pin v) s = .next t)
    (hl : latchesBy (.pin v) s = true) : t.icr = s.cnt := by
  cases hx
  exact if_pos hl

/-- After INIT the counter runs from 0 and no wrap is counted. -/
theorem init_starts_counting {r s : State} (hx : exec .init r = .next s) :
    Counting s ∧ s.cnt = 0#16 ∧ countedWraps s = 0#16 := by
  obtain ⟨-, rfl⟩ := exec_init_next hx
  exact ⟨⟨rfl, rfl⟩, rfl, rfl⟩

section Timely

variable {before during : List Instr} {v : Bool} {r s₀ s₁ s₂ s₃ : State}

theorem TimelyCapture.runUpToLatch (h : TimelyCapture before v during s₀ s₁ s₂ s₃) :
    runOps (before ++ [.pin v]) s₀ = .next s₂ :=
  runOps_append_of_next h.runBefore (runOps_cons_of_next h.latch [])

theorem TimelyCapture.run (h : TimelyCapture before v during s₀ s₁ s₂ s₃) :
    runOps (before ++ [.pin v] ++ during) s₀ = .next s₃ :=
  runOps_append_of_next h.runUpToLatch h.runDuring

theorem TimelyCapture.icr_eq (h : TimelyCapture before v during s₀ s₁ s₂ s₃) : s₃.icr = s₁.cnt :=
  (runOps_keeps_icr h.runDuring h.kept).trans (exec_pin_icr_of_latches h.latch h.latches)

/-- The edge itself is no wrap. -/
theorem TimelyCapture.wrapsIn_eq (h : TimelyCapture before v during s₀ s₁ s₂ s₃) :
    wrapsIn (before ++ [.pin v] ++ during) s₀ = wrapsIn before s₀ + wrapsIn during s₂ := by
  rw [wrapsIn_append h.runUpToLatch, wrapsIn_append h.runBefore, wrapsIn_cons h.latch]
  rfl

/-- The TICKs before the latch are the wraps before it and the latched value. -/
theorem TimelyCapture.ticks_before (h : TimelyCapture before v during s₀ s₁ s₂ s₃) (hinit : exec .init r = .next s₀) :
    before.count .tick = wrapsIn before s₀ * 65536 + s₃.icr.toNat := by
  obtain ⟨counting, hcnt, -⟩ := init_starts_counting hinit
  have ticks := runOps_counts_ticks counting h.runBefore
  rw [hcnt, BitVec.toNat_zero] at ticks
  rw [h.icr_eq]
  omega

/-- At the CAP no wrap of the run is missing from `OVH` and the flag. -/
theorem TimelyCapture.counted (h : TimelyCapture before v during s₀ s₁ s₂ s₃) (hinit : exec .init r = .next s₀) :
    countedWraps s₃ = BitVec.ofNat 16 (wrapsIn before s₀ + wrapsIn during s₂) := by
  obtain ⟨counting, -, hzero⟩ := init_starts_counting hinit
  have conserved := runOps_conserves_wraps counting.inited h.run
  rwa [h.noLostWrap, h.wrapsIn_eq, hzero, BitVec.add_zero, BitVec.zero_add] at conserved

/-- The guarded count is the count of the wraps before the latch: a wrap after it is pending and the latched value
high, and a wrap pending from before it finds the latched value low. -/
theorem TimelyCapture.adjust_eq (h : TimelyCapture before v during s₀ s₁ s₂ s₃) (hinit : exec .init r = .next s₀) :
    adjust s₃.ovfPend s₃.icr s₃.ovh = BitVec.ofNat 16 (wrapsIn before s₀) := by
  have counted := h.counted hinit
  rw [countedWraps] at counted
  rcases Nat.le_one_iff_eq_zero_or_eq_one.1 h.oneWrap with none_after | one_after
  · rw [none_after, Nat.add_zero] at counted
    cases hpend : s₃.ovfPend with
    | false => simpa [hpend] using counted
    | true =>
      rw [adjust_true_of_lt _ (h.wrapBefore none_after hpend), ← counted, hpend]
      rfl
  · obtain ⟨high, hpend⟩ := h.wrapAfter one_after
    rw [one_after, hpend, BitVec.ofNat_add] at counted
    rw [hpend, adjust_true_of_ge _ high]
    exact add_right_cancel counted

theorem TimelyCapture.ticks_eq (h : TimelyCapture before v during s₀ s₁ s₂ s₃) (hinit : exec .init r = .next s₀) :
    (captureEvent s₃).ticks = BitVec.ofNat 32 (before.count .tick) := by
  have hicr := s₃.icr.isLt
  apply BitVec.eq_of_toNat_eq
  rw [captureEvent, abstick_toNat, h.adjust_eq hinit, h.ticks_before hinit, BitVec.toNat_ofNat, BitVec.toNat_ofNat]
  omega

end Timely

/-- Settles O26. -/
theorem capturedTickIsTheLatchTime : Obligations.CapturedTickIsTheLatchTime :=
  fun _ _ _ _ _ _ _ _ hinit h => h.ticks_eq hinit

/-- Settles O27: the ticks are the TICKs before the latches, and within one window of `2^32` the remainders are ordered
as the numbers. -/
theorem timelyTicksAreMonotone : Obligations.TimelyTicksAreMonotone := by
  intro before during between during' v v' r s₀ s₁ s₂ s₃ u₁ u₂ u₃ hinit first second window
  have later : List.count Instr.tick (before ++ [.pin v] ++ during ++ between) =
      before.count .tick + (during ++ between).count .tick := by
    simp [List.count_append]
  rw [first.ticks_eq hinit, second.ticks_eq hinit, BitVec.le_def, ← BitVec.toNat_inj, BitVec.toNat_ofNat,
    BitVec.toNat_ofNat]
  rw [later] at window ⊢
  omega

end Sys2Proof.Machine
end

section
/-! PROOFS. Fair dispatch (spec/70_reset_and_hazards.md R251): an enabled CAP that is never taken would stay enabled for
ever, which weak fairness excludes; and the CAP that is taken enqueues its event or counts the drop. -/

namespace Sys2Proof.Machine

theorem Execution.inv {ops : Nat → Instr} {at_ : Nat → State} (hx : Execution ops at_) {n m : Nat}
    (h : Inv (at_ n)) (hm : n ≤ m) : Inv (at_ m) := by
  induction m, hm using Nat.le_induction with
  | base => exact h
  | succ m _ ih => exact exec_keeps_inv ih (hx m)

/-- Until it is taken, and while interrupts are not disabled, an enabled CAP stays enabled. -/
theorem Execution.capEnabled_of_not_taken {ops : Nat → Instr} {at_ : Nat → State} (hx : Execution ops at_) {n m : Nat}
    (hen : capEnabled (at_ n) = true) (hgie : ∀ m, n ≤ m → ops m ≠ .gie false) (hcap : ∀ m, n ≤ m → ops m ≠ .cap)
    (hm : n ≤ m) : capEnabled (at_ m) = true := by
  induction m, hm using Nat.le_induction with
  | base => exact hen
  | succ m hm ih =>
    obtain ⟨stays, -⟩ := enabledServicesStayEnabled (ops m) (at_ m) (at_ (m + 1)) (hx m) (hgie m hm)
    exact stays ih (hcap m hm)

theorem exists_cap_of_fair {ops : Nat → Instr} {at_ : Nat → State} {n : Nat} (hx : Execution ops at_)
    (hfair : WeaklyFair ops at_) (hen : capEnabled (at_ n) = true) (hgie : ∀ m, n ≤ m → ops m ≠ .gie false) :
    ∃ m, n ≤ m ∧ ops m = .cap := by
  obtain ⟨fair_cap, -⟩ := hfair
  by_contra hnone
  have not_taken : ∀ m, n ≤ m → ops m ≠ .cap := fun m hm hcap => hnone ⟨m, hm, hcap⟩
  exact hnone (fair_cap n fun m hm => hx.capEnabled_of_not_taken hen hgie not_taken hm)

theorem capEnabled_of_exec_cap {s t : State} (hx : exec .cap s = .next t) : capEnabled s = true := by
  by_contra hen
  cases (exec_cap_of_not_enabled hen).symm.trans hx

/-- A CAP that is Done consumes the pending capture, and enqueues its event or counts the drop (R145, R201). -/
theorem exec_cap_serves {s t : State} (h : Inv s) (hx : exec .cap s = .next t) :
    t.capPend = false ∧
      ((queue t = queue s ++ [captureEvent s] ∧ t.dropped = s.dropped) ∨
       (queue t = queue s ∧ t.dropped = s.dropped + 1#16)) := by
  obtain ⟨hi, -, -, -⟩ := (capEnabled_iff s).1 (capEnabled_of_exec_cap hx)
  rcases exec_cap_next_cases hx with ⟨-, rfl⟩ | ⟨hf, rfl⟩
  · exact ⟨rfl, .inr ⟨rfl, rfl⟩⟩
  · exact ⟨rfl, .inl ⟨queue_capEnqueueState h hi hf, rfl⟩⟩

/-- Settles O51: fairness gives a CAP that is taken, and the invariant still holds there. -/
theorem fairDispatchServesEveryCapture : Obligations.FairDispatchServesEveryCapture := by
  intro ops at_ n hx hfair hinv hen hgie
  obtain ⟨m, hm, hcap⟩ := exists_cap_of_fair hx hfair hen hgie
  have served : exec .cap (at_ m) = .next (at_ (m + 1)) := hcap ▸ hx m
  exact ⟨m, hm, hcap, exec_cap_serves (hx.inv hinv hm) served⟩

end Sys2Proof.Machine
end
